-- ==== Sys2Proof/Word.lean ====
section
/-! DEFINITION. The word types of the machine: bytes and 32-bit words (spec 00_scope.md R6, R7). -/

namespace Sys2Proof

/-- A byte, 8 bits (R6). -/
abbrev Byte := BitVec 8

/-- A register value or an address, 32 bits (R5 `XLEN`, R7). -/
abbrev Word := BitVec 32

/-- A register number, the four bits of a register field of an instruction (R20). -/
abbrev RegNum := BitVec 4

end Sys2Proof
end

