-- ==== Sys2Proof/Config.lean ====
section
/-! DEFINITION. What an implementation fixes (spec 00_scope.md R5) and the free values: constants
without a body for what the spec leaves open. -/

namespace Sys2Proof

/-- What STR and STM store for r15, relative to the address of the instruction: 8 or 12
(R5 `PC_STORE_OFFSET`; 40_single_word_byte.md R125). -/
inductive PcStoreOffset where
  | plus8
  | plus12
  deriving DecidableEq, Repr, Inhabited

/-- The offset as a word. -/
def PcStoreOffset.value : PcStoreOffset → Word
  | .plus8 => 8
  | .plus12 => 12

/-- The byte order a configuration asks for (R5 `ENDIAN`; 20_memory.md R53). -/
inductive Endian where
  | little
  | big
  deriving DecidableEq, Repr

/-- `VECTOR_BASE` = 0x00000000 (R5, 60_exceptions.md R221). -/
def Config.vectorBase : Word := 0

/-- `PC_READ_OFFSET` = 8 (R5, 10_state.md R23). -/
def Config.pcReadOffset : Word := 8

/-- FREE VALUE: `C1_OTHER`, the bits of CP15 register 1 other than bit 1: one unknown constant
(10_state.md R29, R40; bit 1 of this word is not used). DESIGN CHOICE, log 3; safe. -/
opaque Config.c1Other : BitVec 32

/-- FREE VALUE: the `PC_STORE_OFFSET` of the machine that starts from reset; only that it is 8 or
12 is known (R5, 92_eei_decisions.md D10). DESIGN CHOICE, log 10; safe. -/
opaque Config.pcStoreOffset : PcStoreOffset

/-- FREE VALUE: the words drawn for registers that hold any value (42_multiple.md R171;
60_exceptions.md R228 with 10_state.md R40). DESIGN CHOICE, log 11; safe. -/
opaque Config.freeWord : Nat → BitVec 32

/-- FREE VALUE: the choice between the new (true) and the old (false) value of a word of an
aborted STM (42_multiple.md R171). DESIGN CHOICE, log 11; safe. -/
opaque Config.freeBit : Nat → Bool

end Sys2Proof
end

