-- ==== Sys2Proof/Machine/State.lean ====
section
/-! DEFINITION. The state of the machine as plain data, the reasons a step can stop, and the state
after reset (spec 10_state.md R20 to R34, R40). -/

namespace Sys2Proof.Machine

/-- The seven processor modes (R28). -/
inductive Mode where
  | usr | fiq | irq | svc | abt | und | sys
  deriving DecidableEq, Repr

/-- The thirty physical general registers other than r15 (the table of R21). -/
inductive PhysReg where
  | r0 | r1 | r2 | r3 | r4 | r5 | r6 | r7
  | r8 | r9 | r10 | r11 | r12 | r13 | r14
  | r8_fiq | r9_fiq | r10_fiq | r11_fiq | r12_fiq | r13_fiq | r14_fiq
  | r13_svc | r14_svc | r13_abt | r14_abt | r13_und | r14_und | r13_irq | r14_irq
  deriving DecidableEq, Repr

/-- The kinds of an access (00_scope.md R5, 20_memory.md R56, R73). -/
inductive AccessKind where
  | read | write | fetch
  deriving DecidableEq, Repr

/-- The privilege an access is judged with (20_memory.md R56, R65). -/
inductive Priv where
  | user | privileged
  deriving DecidableEq, Repr

/-- The size of an access: 1, 2 or 4 bytes (20_memory.md R51). -/
inductive Width where
  | byte | half | word
  deriving DecidableEq, Repr

/-- The cause a Data Abort records (R31; 60_exceptions.md R225). -/
inductive AbortCause where
  | alignment | permission
  deriving DecidableEq, Repr

/-- The information of a Data Abort (R31). -/
structure AbortInfo where
  cause : AbortCause
  addr : Word
  deriving DecidableEq, Repr

/-- One entry of the oracle `Access`: it answers `abort` for every request of this kind, privilege
and width whose address lies from `first` to `last`; what no entry names is `ok` (00_scope.md R5).
DESIGN CHOICE, log 5. -/
structure Denial where
  first : Word
  last : Word
  width : Width
  kind : AccessKind
  priv : Priv
  deriving DecidableEq, Repr

/-- The levels of the three inputs at one instruction boundary (60_exceptions.md R220, R229).
DESIGN CHOICE, log 6. -/
structure Lines where
  reset : Bool
  irq : Bool
  fiq : Bool
  deriving DecidableEq, Repr

/-- The launch parameters of 00_scope.md R5 that are not fixed for good; no step writes them.
DESIGN CHOICE, log 9. -/
structure Params where
  /-- `UNALIGNED_HW` (20_memory.md R62). -/
  unalignedHw : Bool
  /-- `HAS_CLZ` (45_clz.md R210). -/
  hasClz : Bool
  /-- `ENDIAN` (20_memory.md R53). -/
  endian : Endian
  /-- `PC_STORE_OFFSET` (40_single_word_byte.md R125). -/
  pcStoreOffset : PcStoreOffset
  deriving DecidableEq, Repr

/-- Memory: the bytes that have a value, by rising address (R32; 20_memory.md R50). An address that
is not listed has no value yet: DESIGN CHOICE, log 4, safe. -/
abbrev Memory := List Host.Cell

/-- Why the machine stops with a fault. -/
inductive Fault where
  /-- A byte of memory that nothing has given a value was read (R40 `UnwrittenState`). Raised by
  every load and by the fetch. Safe: the hardware goes on with an unknown value. -/
  | unwrittenState
  /-- CPSR.M is none of the seven modes (R28). Raised by every instruction and by the step; no
  reachable state raises it (Inv). Safe. Log 18. -/
  | modeBitsIllegal
  /-- CPSR.T is 1 (R25: "must be 0 in this spec"). Raised by the step; no reachable state raises it
  (Inv). Safe. Log 18. -/
  | thumbState
  /-- The pc is not word-aligned at a fetch (20_memory.md R73: it cannot occur). Raised by the step;
  no reachable state raises it (Inv). Safe. Log 18. -/
  | pcMisaligned
  deriving DecidableEq, Repr

/-- The spec's `refuse(reason)` (93_implementation_defined.md section 1): it makes no claim about
what follows, so each is safe. -/
inductive Refusal where
  /-- An instruction this model has no meaning for; no arm of exec answers it. Safe. -/
  | notModelled (mnemonic : String)
  /-- Raised by the step for a word that matches no row of the table (30_encoding.md R97), and by an
  instruction that is not the reading of any word or that HAS_CLZ = no takes out. Safe. -/
  | notAdmitted
  /-- Raised by the step for a word with bits 31:28 = 0b1111 (30_encoding.md R82). Safe. -/
  | cond1111
  /-- Raised by an instruction with a register combination of the table of 30_encoding.md R98. Safe. -/
  | unpredictableOperands
  /-- Raised by LDM and STM with an empty list (42_multiple.md R171, R186). Safe. -/
  | emptyRegisterList
  /-- Raised by a load of the pc with a value whose bits 1:0 are not 0 (R124, R171, R183). Safe. -/
  | loadPcLowBits
  /-- Raised by LDRH, STRH, LDRSH at an odd address with A = 0 (41_halfword_signed.md R152). Safe. -/
  | unalignedHalfword
  /-- Raised by LDM and STM with an unaligned base and A = 0 (42_multiple.md R171). Safe. -/
  | unalignedMultiple
  /-- Raised by SWP at an unaligned address with A = 0 (44_swp.md R205). Safe. -/
  | unalignedSwap
  /-- Raised by an unaligned half-word or word access with UNALIGNED_HW = on (20_memory.md R62).
  Safe. -/
  | unalignedHwNotSpecified
  /-- Raised by an instruction at 0xFFFFFFFC that does not write the pc (10_state.md R24), and by an
  LDM or STM whose range wraps (42_multiple.md R171). Safe. -/
  | addressWrap
  /-- Raised by LDM `^` with the pc in User or System mode (42_multiple.md R183). Safe. -/
  | noSpsr
  /-- Raised by LDM, STM `^` without the pc in User or System mode (R184, R185). Safe. -/
  | userBankFormInUserOrSystem
  /-- Raised by LDM `^` with the pc when SPSR.T = 1 (R183). Safe. -/
  | thumbNotInScope
  /-- Raised by LDM `^` with the pc when SPSR.M is no mode (R183). Safe. -/
  | illegalMode
  /-- Raised by MCR to register 1 that would change a bit other than bit 1 (46_cp15_access.md R216).
  Safe. -/
  | cp15ControlBitsNotModelled
  /-- Raised by MRC and MCR of any other CP15 register (46_cp15_access.md R217). Safe. -/
  | cp15RegisterNotModelled
  /-- Raised by the step when a store of the run wrote a byte of the word it fetches
  (20_memory.md R72). Safe. -/
  | fetchFromWrittenLocation
  /-- Raised by the step when the instruction after a User-bank LDM names a banked register
  (70_reset_and_hazards.md R266). Safe. -/
  | bankedRegisterHazard
  /-- Raised by the step under a configuration with ENDIAN = big (20_memory.md R53). Safe. -/
  | bigEndianNotSupported
  deriving DecidableEq, Repr

/-- The machine's state. -/
structure State where
  /-- The thirty general registers other than r15, by PhysReg.idx (R20, R21). -/
  gpr : Vector Word 30
  /-- r15: the address of the instruction being executed (R23). -/
  pc : Word
  /-- The current program status register (R25). -/
  cpsr : Word
  /-- The saved program status registers of the five exception modes (R27). -/
  spsrSvc : Word
  spsrAbt : Word
  spsrUnd : Word
  spsrIrq : Word
  spsrFiq : Word
  /-- CP15 register 1: the alignment-check flag A in bit 1, C1_OTHER in the others (R29). -/
  cp15c1 : Word
  /-- Memory (R32). -/
  mem : Memory
  /-- The rising addresses of the bytes a store of the run has written (20_memory.md R72; log 16). -/
  written : List Nat
  /-- What the latest Data Abort recorded (R31; log 17). -/
  abortInfo : Option AbortInfo
  /-- The instruction just executed was a User-bank LDM (70_reset_and_hazards.md R266; log 15). -/
  bankHazard : Bool
  /-- The oracle `Access` (00_scope.md R5; log 5); no step writes it. -/
  denials : List Denial
  /-- The inputs at the coming instruction boundaries, the next one first; past the end of the list
  none is asserted (60_exceptions.md R229; log 6). -/
  lines : List Lines
  /-- The launch parameters (00_scope.md R5; log 9); no step writes them. -/
  params : Params
  /-- The model's own counter of draws of free values (log 11). -/
  draws : Nat
  deriving DecidableEq, Repr

/-- The addresses rise strictly from `lo` on and lie in the address space (R50). -/
def Memory.wfFrom (lo : Nat) : Memory → Bool
  | [] => true
  | c :: rest => decide (lo ≤ c.1) && decide (c.1 < 4294967296) && Memory.wfFrom (c.1 + 1) rest

/-- The canonical form of memory: strictly rising 32-bit addresses. An unlisted address has no
value, so no entry can equal what an unlisted address reads as. -/
def Memory.wf (m : Memory) : Bool := Memory.wfFrom 0 m

/-- The addresses rise strictly from `lo` on and lie in the address space. -/
def risingFrom (lo : Nat) : List Nat → Bool
  | [] => true
  | a :: rest => decide (lo ≤ a) && decide (a < 4294967296) && risingFrom (a + 1) rest

/-- The canonical form of a set of addresses. -/
def rising (l : List Nat) : Bool := risingFrom 0 l

/-- The parameters the spec takes by default; PC_STORE_OFFSET is open (00_scope.md R5). -/
def Params.default : Params :=
  { unalignedHw := false, hasClz := true, endian := .little, pcStoreOffset := Config.pcStoreOffset }

/-- The state after reset (R40, 70_reset_and_hazards.md R260): Supervisor mode, I = F = 1, T = 0,
A = 0, pc = VECTOR_BASE + 0x00. Registers, SPSRs, flags and bits 27:8 of the CPSR, which R40 leaves
unspecified, hold 0: DESIGN CHOICE, log 1 and 2, unsafe. C1_OTHER is a free constant: log 3. Memory
has no value anywhere: log 4. -/
def State.reset : State :=
  { gpr := Vector.replicate 30 0
    pc := Config.vectorBase
    cpsr := 0x000000D3
    spsrSvc := 0
    spsrAbt := 0
    spsrUnd := 0
    spsrIrq := 0
    spsrFiq := 0
    cp15c1 := Config.c1Other &&& 0xFFFFFFFD
    mem := []
    written := []
    abortInfo := none
    bankHazard := false
    denials := []
    lines := []
    params := Params.default
    draws := 0 }

end Sys2Proof.Machine
end

