-- ==== Sys2Proof/Syntax.lean ====
section
/-! DEFINITION. The instructions: one constructor for each of the 66 rows of opcode_table.json
(spec 30_encoding.md R80 to R97), and the types of their operands. -/

namespace Sys2Proof

/-- The condition of an instruction (30_encoding.md R82). The field value 0b1111 is no condition. -/
inductive Cond where
  | eq | ne | cs | cc | mi | pl | vs | vc | hi | ls | ge | lt | gt | le | al
  deriving DecidableEq, Repr

/-- The shift field of a scaled register offset: 0b00 LSL, 0b01 LSR, 0b10 ASR, 0b11 ROR; amount 0
means none, LSR #32, ASR #32 and RRX in turn (30_encoding.md R85). -/
inductive ShiftKind where
  | lsl | lsr | asr | ror
  deriving DecidableEq, Repr

/-- An instruction. `c` is the condition; `u` the U bit (true: the offset is added); `w` the W bit
(true: `!`, write-back); `n`, `d`, `m` the numbers of Rn, Rd, Rm; `imm` an immediate offset; `amt`,
`sh` the shift amount and kind; `list` the register list, bit i for register i (R83 to R94). -/
inductive Instr where
  /-- LDR, load word, immediate offset, pre-indexed (R124; row SDT.imm.pre). -/
  | ldrImmPre (c : Cond) (u w : Bool) (n d : RegNum) (imm : BitVec 12)
  /-- LDR, load word, immediate offset, post-indexed (R124; row SDT.imm.post). -/
  | ldrImmPost (c : Cond) (u : Bool) (n d : RegNum) (imm : BitVec 12)
  /-- LDR, load word, scaled register offset, pre-indexed (R124; row SDT.reg.pre). -/
  | ldrRegPre (c : Cond) (u w : Bool) (n d : RegNum) (amt : BitVec 5) (sh : ShiftKind) (m : RegNum)
  /-- LDR, load word, scaled register offset, post-indexed (R124; row SDT.reg.post). -/
  | ldrRegPost (c : Cond) (u : Bool) (n d : RegNum) (amt : BitVec 5) (sh : ShiftKind) (m : RegNum)
  /-- LDRT, load word with user privilege, immediate offset (R128; row SDT.imm.post.T). -/
  | ldrtImm (c : Cond) (u : Bool) (n d : RegNum) (imm : BitVec 12)
  /-- LDRT, load word with user privilege, scaled register offset (R128; row SDT.reg.post.T). -/
  | ldrtReg (c : Cond) (u : Bool) (n d : RegNum) (amt : BitVec 5) (sh : ShiftKind) (m : RegNum)
  /-- LDRB, load unsigned byte, immediate offset, pre-indexed (R126; row SDT.imm.pre). -/
  | ldrbImmPre (c : Cond) (u w : Bool) (n d : RegNum) (imm : BitVec 12)
  /-- LDRB, load unsigned byte, immediate offset, post-indexed (R126; row SDT.imm.post). -/
  | ldrbImmPost (c : Cond) (u : Bool) (n d : RegNum) (imm : BitVec 12)
  /-- LDRB, load unsigned byte, scaled register offset, pre-indexed (R126; row SDT.reg.pre). -/
  | ldrbRegPre (c : Cond) (u w : Bool) (n d : RegNum) (amt : BitVec 5) (sh : ShiftKind) (m : RegNum)
  /-- LDRB, load unsigned byte, scaled register offset, post-indexed (R126; row SDT.reg.post). -/
  | ldrbRegPost (c : Cond) (u : Bool) (n d : RegNum) (amt : BitVec 5) (sh : ShiftKind) (m : RegNum)
  /-- LDRBT, load unsigned byte with user privilege, immediate offset (R130; row SDT.imm.post.T). -/
  | ldrbtImm (c : Cond) (u : Bool) (n d : RegNum) (imm : BitVec 12)
  /-- LDRBT, load unsigned byte with user privilege, scaled register offset (R130; row SDT.reg.post.T). -/
  | ldrbtReg (c : Cond) (u : Bool) (n d : RegNum) (amt : BitVec 5) (sh : ShiftKind) (m : RegNum)
  /-- STR, store word, immediate offset, pre-indexed (R125; row SDT.imm.pre). -/
  | strImmPre (c : Cond) (u w : Bool) (n d : RegNum) (imm : BitVec 12)
  /-- STR, store word, immediate offset, post-indexed (R125; row SDT.imm.post). -/
  | strImmPost (c : Cond) (u : Bool) (n d : RegNum) (imm : BitVec 12)
  /-- STR, store word, scaled register offset, pre-indexed (R125; row SDT.reg.pre). -/
  | strRegPre (c : Cond) (u w : Bool) (n d : RegNum) (amt : BitVec 5) (sh : ShiftKind) (m : RegNum)
  /-- STR, store word, scaled register offset, post-indexed (R125; row SDT.reg.post). -/
  | strRegPost (c : Cond) (u : Bool) (n d : RegNum) (amt : BitVec 5) (sh : ShiftKind) (m : RegNum)
  /-- STRT, store word with user privilege, immediate offset (R129; row SDT.imm.post.T). -/
  | strtImm (c : Cond) (u : Bool) (n d : RegNum) (imm : BitVec 12)
  /-- STRT, store word with user privilege, scaled register offset (R129; row SDT.reg.post.T). -/
  | strtReg (c : Cond) (u : Bool) (n d : RegNum) (amt : BitVec 5) (sh : ShiftKind) (m : RegNum)
  /-- STRB, store byte, immediate offset, pre-indexed (R127; row SDT.imm.pre). -/
  | strbImmPre (c : Cond) (u w : Bool) (n d : RegNum) (imm : BitVec 12)
  /-- STRB, store byte, immediate offset, post-indexed (R127; row SDT.imm.post). -/
  | strbImmPost (c : Cond) (u : Bool) (n d : RegNum) (imm : BitVec 12)
  /-- STRB, store byte, scaled register offset, pre-indexed (R127; row SDT.reg.pre). -/
  | strbRegPre (c : Cond) (u w : Bool) (n d : RegNum) (amt : BitVec 5) (sh : ShiftKind) (m : RegNum)
  /-- STRB, store byte, scaled register offset, post-indexed (R127; row SDT.reg.post). -/
  | strbRegPost (c : Cond) (u : Bool) (n d : RegNum) (amt : BitVec 5) (sh : ShiftKind) (m : RegNum)
  /-- STRBT, store byte with user privilege, immediate offset (R131; row SDT.imm.post.T). -/
  | strbtImm (c : Cond) (u : Bool) (n d : RegNum) (imm : BitVec 12)
  /-- STRBT, store byte with user privilege, scaled register offset (R131; row SDT.reg.post.T). -/
  | strbtReg (c : Cond) (u : Bool) (n d : RegNum) (amt : BitVec 5) (sh : ShiftKind) (m : RegNum)
  /-- LDRH, load unsigned half-word, immediate offset, pre-indexed (R153; row HSDT.imm.pre). -/
  | ldrhImmPre (c : Cond) (u w : Bool) (n d : RegNum) (imm : BitVec 8)
  /-- LDRH, load unsigned half-word, immediate offset, post-indexed (R153; row HSDT.imm.post). -/
  | ldrhImmPost (c : Cond) (u : Bool) (n d : RegNum) (imm : BitVec 8)
  /-- LDRH, load unsigned half-word, register offset, pre-indexed (R153; row HSDT.reg.pre). -/
  | ldrhRegPre (c : Cond) (u w : Bool) (n d m : RegNum)
  /-- LDRH, load unsigned half-word, register offset, post-indexed (R153; row HSDT.reg.post). -/
  | ldrhRegPost (c : Cond) (u : Bool) (n d m : RegNum)
  /-- STRH, store half-word, immediate offset, pre-indexed (R154; row HSDT.imm.pre). -/
  | strhImmPre (c : Cond) (u w : Bool) (n d : RegNum) (imm : BitVec 8)
  /-- STRH, store half-word, immediate offset, post-indexed (R154; row HSDT.imm.post). -/
  | strhImmPost (c : Cond) (u : Bool) (n d : RegNum) (imm : BitVec 8)
  /-- STRH, store half-word, register offset, pre-indexed (R154; row HSDT.reg.pre). -/
  | strhRegPre (c : Cond) (u w : Bool) (n d m : RegNum)
  /-- STRH, store half-word, register offset, post-indexed (R154; row HSDT.reg.post). -/
  | strhRegPost (c : Cond) (u : Bool) (n d m : RegNum)
  /-- LDRSB, load signed byte, immediate offset, pre-indexed (R157; row HSDT.imm.pre). -/
  | ldrsbImmPre (c : Cond) (u w : Bool) (n d : RegNum) (imm : BitVec 8)
  /-- LDRSB, load signed byte, immediate offset, post-indexed (R157; row HSDT.imm.post). -/
  | ldrsbImmPost (c : Cond) (u : Bool) (n d : RegNum) (imm : BitVec 8)
  /-- LDRSB, load signed byte, register offset, pre-indexed (R157; row HSDT.reg.pre). -/
  | ldrsbRegPre (c : Cond) (u w : Bool) (n d m : RegNum)
  /-- LDRSB, load signed byte, register offset, post-indexed (R157; row HSDT.reg.post). -/
  | ldrsbRegPost (c : Cond) (u : Bool) (n d m : RegNum)
  /-- LDRSH, load signed half-word, immediate offset, pre-indexed (R158; row HSDT.imm.pre). -/
  | ldrshImmPre (c : Cond) (u w : Bool) (n d : RegNum) (imm : BitVec 8)
  /-- LDRSH, load signed half-word, immediate offset, post-indexed (R158; row HSDT.imm.post). -/
  | ldrshImmPost (c : Cond) (u : Bool) (n d : RegNum) (imm : BitVec 8)
  /-- LDRSH, load signed half-word, register offset, pre-indexed (R158; row HSDT.reg.pre). -/
  | ldrshRegPre (c : Cond) (u w : Bool) (n d m : RegNum)
  /-- LDRSH, load signed half-word, register offset, post-indexed (R158; row HSDT.reg.post). -/
  | ldrshRegPost (c : Cond) (u : Bool) (n d m : RegNum)
  /-- LDMIA, load multiple, increment after (R172; row BDT). -/
  | ldmia (c : Cond) (w : Bool) (n : RegNum) (list : BitVec 16)
  /-- LDMIB, load multiple, increment before (R173; row BDT). -/
  | ldmib (c : Cond) (w : Bool) (n : RegNum) (list : BitVec 16)
  /-- LDMDA, load multiple, decrement after (R174; row BDT). -/
  | ldmda (c : Cond) (w : Bool) (n : RegNum) (list : BitVec 16)
  /-- LDMDB, load multiple, decrement before (R175; row BDT). -/
  | ldmdb (c : Cond) (w : Bool) (n : RegNum) (list : BitVec 16)
  /-- STMIA, store multiple, increment after (R176; row BDT). -/
  | stmia (c : Cond) (w : Bool) (n : RegNum) (list : BitVec 16)
  /-- STMIB, store multiple, increment before (R177; row BDT). -/
  | stmib (c : Cond) (w : Bool) (n : RegNum) (list : BitVec 16)
  /-- STMDA, store multiple, decrement after (R178; row BDT). -/
  | stmda (c : Cond) (w : Bool) (n : RegNum) (list : BitVec 16)
  /-- STMDB, store multiple, decrement before (R179; row BDT). -/
  | stmdb (c : Cond) (w : Bool) (n : RegNum) (list : BitVec 16)
  /-- LDMIA with `^` and the pc in the list, exception return (R183; row BDT.S.pc). -/
  | ldmiaRet (c : Cond) (w : Bool) (n : RegNum) (list : BitVec 16)
  /-- LDMIB with `^` and the pc in the list, exception return (R183; row BDT.S.pc). -/
  | ldmibRet (c : Cond) (w : Bool) (n : RegNum) (list : BitVec 16)
  /-- LDMDA with `^` and the pc in the list, exception return (R183; row BDT.S.pc). -/
  | ldmdaRet (c : Cond) (w : Bool) (n : RegNum) (list : BitVec 16)
  /-- LDMDB with `^` and the pc in the list, exception return (R183; row BDT.S.pc). -/
  | ldmdbRet (c : Cond) (w : Bool) (n : RegNum) (list : BitVec 16)
  /-- LDMIA with `^` and no pc in the list, User-mode registers (R184; row BDT.S.user). -/
  | ldmiaUsr (c : Cond) (n : RegNum) (list : BitVec 16)
  /-- LDMIB with `^` and no pc in the list, User-mode registers (R184; row BDT.S.user). -/
  | ldmibUsr (c : Cond) (n : RegNum) (list : BitVec 16)
  /-- LDMDA with `^` and no pc in the list, User-mode registers (R184; row BDT.S.user). -/
  | ldmdaUsr (c : Cond) (n : RegNum) (list : BitVec 16)
  /-- LDMDB with `^` and no pc in the list, User-mode registers (R184; row BDT.S.user). -/
  | ldmdbUsr (c : Cond) (n : RegNum) (list : BitVec 16)
  /-- STMIA with `^`, User-mode registers (R185; row BDT.S.user). -/
  | stmiaUsr (c : Cond) (n : RegNum) (list : BitVec 16)
  /-- STMIB with `^`, User-mode registers (R185; row BDT.S.user). -/
  | stmibUsr (c : Cond) (n : RegNum) (list : BitVec 16)
  /-- STMDA with `^`, User-mode registers (R185; row BDT.S.user). -/
  | stmdaUsr (c : Cond) (n : RegNum) (list : BitVec 16)
  /-- STMDB with `^`, User-mode registers (R185; row BDT.S.user). -/
  | stmdbUsr (c : Cond) (n : RegNum) (list : BitVec 16)
  /-- SWI, software interrupt (R200; row SWI). -/
  | swi (c : Cond) (imm : BitVec 24)
  /-- SWP, swap word (R205; row SWP). -/
  | swp (c : Cond) (n d m : RegNum)
  /-- SWPB, swap byte (R206; row SWP). -/
  | swpb (c : Cond) (n d m : RegNum)
  /-- CLZ, count leading zeros (R210; row CLZ). -/
  | clz (c : Cond) (d m : RegNum)
  /-- MRC p15, read a system control coprocessor register (R215, R217; row CPRT). -/
  | mrc (c : Cond) (crn : BitVec 4) (d : RegNum) (op2 : BitVec 3) (crm : BitVec 4)
  /-- MCR p15, write a system control coprocessor register (R216, R217; row CPRT). -/
  | mcr (c : Cond) (crn : BitVec 4) (d : RegNum) (op2 : BitVec 3) (crm : BitVec 4)
  deriving DecidableEq, Repr

end Sys2Proof
end

