-- ==== Sys2Proof/Machine/Flags.lean ====
section
/-! DEFINITION. The program status registers: flags, masks and mode (spec 10_state.md R25 to R28),
and the condition test (30_encoding.md R82). No instruction of the spec computes a flag (R26). -/

namespace Sys2Proof.Machine

/-- The mode field (R28); none for a value that is no mode. -/
def Mode.ofBits (b : BitVec 5) : Option Mode :=
  match b.toNat with
  | 0b10000 => some .usr
  | 0b10001 => some .fiq
  | 0b10010 => some .irq
  | 0b10011 => some .svc
  | 0b10111 => some .abt
  | 0b11011 => some .und
  | 0b11111 => some .sys
  | _ => none

/-- The bits of a mode (R28). -/
def Mode.bits : Mode → BitVec 5
  | .usr => 0b10000
  | .fiq => 0b10001
  | .irq => 0b10010
  | .svc => 0b10011
  | .abt => 0b10111
  | .und => 0b11011
  | .sys => 0b11111

/-- User mode is unprivileged, the other six are privileged (R28, 60_exceptions.md R233). -/
def Mode.priv : Mode → Priv
  | .usr => .user
  | _ => .privileged

/-- The M field of a status register (R25). -/
def psrMode? (p : Word) : Option Mode := Mode.ofBits (p.extractLsb' 0 5)

/-- N, bit 31 of a status register (R25). -/
def psrN (p : Word) : Bool := p.getLsbD 31

/-- Z, bit 30 (R25). -/
def psrZ (p : Word) : Bool := p.getLsbD 30

/-- C, bit 29 (R25). -/
def psrC (p : Word) : Bool := p.getLsbD 29

/-- V, bit 28 (R25). -/
def psrV (p : Word) : Bool := p.getLsbD 28

/-- I, bit 7: 1 = IRQ disabled (R25). -/
def psrI (p : Word) : Bool := p.getLsbD 7

/-- F, bit 6: 1 = FIQ disabled (R25). -/
def psrF (p : Word) : Bool := p.getLsbD 6

/-- T, bit 5: the instruction-set state (R25). -/
def psrT (p : Word) : Bool := p.getLsbD 5

/-- The current mode; none where CPSR.M is no mode. -/
def State.mode? (s : State) : Option Mode := psrMode? s.cpsr

/-- `CondPassed(cond)` under the flags of a status register (R82). -/
def condHolds (c : Cond) (p : Word) : Bool :=
  match c with
  | .eq => psrZ p
  | .ne => !psrZ p
  | .cs => psrC p
  | .cc => !psrC p
  | .mi => psrN p
  | .pl => !psrN p
  | .vs => psrV p
  | .vc => !psrV p
  | .hi => psrC p && !psrZ p
  | .ls => !psrC p || psrZ p
  | .ge => psrN p == psrV p
  | .lt => psrN p != psrV p
  | .gt => !psrZ p && psrN p == psrV p
  | .le => psrZ p || psrN p != psrV p
  | .al => true

/-- `CondPassed(cond)` in a state (R82). -/
def State.condPassed (s : State) (c : Cond) : Bool := condHolds c s.cpsr

end Sys2Proof.Machine
end

