-- ==== Sys2Proof/Machine/Ops.lean ====
section
/-! DEFINITION. The named operations over registers and memory, taking an exception and returning
from one (spec 10_state.md R20 to R32, 20_memory.md R50 to R72, 60_exceptions.md R220 to R231). -/

namespace Sys2Proof.Machine

/-! ## Plain updates of one field -/

def State.setPc (s : State) (v : Word) : State := { s with pc := v }
def State.setCpsr (s : State) (v : Word) : State := { s with cpsr := v }
def State.setCp15c1 (s : State) (v : Word) : State := { s with cp15c1 := v }
def State.setHazard (s : State) (b : Bool) : State := { s with bankHazard := b }
def State.setAbort (s : State) (i : AbortInfo) : State := { s with abortInfo := some i }
def State.setDraws (s : State) (n : Nat) : State := { s with draws := n }

/-! ## General registers -/

/-- Where a physical register is held. -/
def PhysReg.idx : PhysReg → Fin 30
  | .r0 => 0
  | .r1 => 1
  | .r2 => 2
  | .r3 => 3
  | .r4 => 4
  | .r5 => 5
  | .r6 => 6
  | .r7 => 7
  | .r8 => 8
  | .r9 => 9
  | .r10 => 10
  | .r11 => 11
  | .r12 => 12
  | .r13 => 13
  | .r14 => 14
  | .r8_fiq => 15
  | .r9_fiq => 16
  | .r10_fiq => 17
  | .r11_fiq => 18
  | .r12_fiq => 19
  | .r13_fiq => 20
  | .r14_fiq => 21
  | .r13_svc => 22
  | .r14_svc => 23
  | .r13_abt => 24
  | .r14_abt => 25
  | .r13_und => 26
  | .r14_und => 27
  | .r13_irq => 28
  | .r14_irq => 29

/-- r13 as a mode sees it (R21). -/
def Mode.sp : Mode → PhysReg
  | .usr => .r13
  | .sys => .r13
  | .svc => .r13_svc
  | .abt => .r13_abt
  | .und => .r13_und
  | .irq => .r13_irq
  | .fiq => .r13_fiq

/-- r14 as a mode sees it (R21). -/
def Mode.lr : Mode → PhysReg
  | .usr => .r14
  | .sys => .r14
  | .svc => .r14_svc
  | .abt => .r14_abt
  | .und => .r14_und
  | .irq => .r14_irq
  | .fiq => .r14_fiq

/-- The table of R21: the register a mode reaches under a number; none for r15, which is the pc. -/
def physReg (m : Mode) (i : RegNum) : Option PhysReg :=
  match i.toNat with
  | 0 => some .r0
  | 1 => some .r1
  | 2 => some .r2
  | 3 => some .r3
  | 4 => some .r4
  | 5 => some .r5
  | 6 => some .r6
  | 7 => some .r7
  | 8 => some (if m = .fiq then .r8_fiq else .r8)
  | 9 => some (if m = .fiq then .r9_fiq else .r9)
  | 10 => some (if m = .fiq then .r10_fiq else .r10)
  | 11 => some (if m = .fiq then .r11_fiq else .r11)
  | 12 => some (if m = .fiq then .r12_fiq else .r12)
  | 13 => some m.sp
  | 14 => some m.lr
  | _ => none

/-- The content of a physical register. -/
def State.getPhys (s : State) (p : PhysReg) : Word := s.gpr.get p.idx

/-- Writes a physical register. -/
def State.setPhys (s : State) (p : PhysReg) (v : Word) : State :=
  { s with gpr := s.gpr.set p.idx v }

/-- `x[i]` as mode `m` sees it, `xu[i]` for `m` = User; `x[15]` is pc + 8 (R21, R22, R23). -/
def State.readReg (s : State) (m : Mode) (i : RegNum) : Word :=
  match physReg m i with
  | some p => s.getPhys p
  | none => s.pc + Config.pcReadOffset

/-- `x[i] <- v` for i = 0 .. 14 as mode `m` sees it (R21). The rules never write x[15] this way; it
is no register of the bank and nothing is written. -/
def State.writeReg (s : State) (m : Mode) (i : RegNum) (v : Word) : State :=
  match physReg m i with
  | some p => s.setPhys p v
  | none => s

/-- `x[i] <- v` for each listed register but r15 (42_multiple.md R171). -/
def State.writeRegs (s : State) (m : Mode) : List (RegNum × Word) → State
  | [] => s
  | (i, v) :: rest => (s.writeReg m i v).writeRegs m rest

/-! ## Saved status registers -/

/-- The SPSR of a mode; User and System have none (R27). -/
def State.spsr? (s : State) : Mode → Option Word
  | .svc => some s.spsrSvc
  | .abt => some s.spsrAbt
  | .und => some s.spsrUnd
  | .irq => some s.spsrIrq
  | .fiq => some s.spsrFiq
  | .usr => none
  | .sys => none

/-- Writes the SPSR of a mode; User and System have none to write (R27). -/
def State.setSpsr (s : State) (m : Mode) (v : Word) : State :=
  match m with
  | .svc => { s with spsrSvc := v }
  | .abt => { s with spsrAbt := v }
  | .und => { s with spsrUnd := v }
  | .irq => { s with spsrIrq := v }
  | .fiq => { s with spsrFiq := v }
  | .usr => s
  | .sys => s

/-! ## CP15 register 1 -/

/-- The alignment-check flag A, bit 1 of CP15 register 1 (R29). -/
def State.alignFlag (s : State) : Bool := s.cp15c1.getLsbD 1

/-! ## Memory -/

/-- The byte at an address, if it has a value. -/
def Memory.read? (m : Memory) (a : Nat) : Option Byte :=
  match m with
  | [] => none
  | c :: rest => if c.1 = a then some c.2 else Memory.read? rest a

/-- Gives the byte at an address a value, keeping the addresses rising. -/
def Memory.write (m : Memory) (a : Nat) (b : Byte) : Memory :=
  match m with
  | [] => [(a, b)]
  | c :: rest =>
    if a < c.1 then (a, b) :: c :: rest
    else if a = c.1 then (a, b) :: rest
    else c :: Memory.write rest a b

/-- Adds an address to a rising list. -/
def insertAddr (a : Nat) : List Nat → List Nat
  | [] => [a]
  | x :: rest => if a < x then a :: x :: rest else if a = x then x :: rest else x :: insertAddr a rest

/-- The byte at a 32-bit address, if it has a value (R50). -/
def State.byteAt (s : State) (a : Word) : Option Byte := Memory.read? s.mem a.toNat

/-- A store of one byte: memory holds it, and the address counts as written (R72). -/
def State.storeByte (s : State) (a : Word) (b : Byte) : State :=
  { s with mem := Memory.write s.mem a.toNat b, written := insertAddr a.toNat s.written }

/-- The half-word at an address, the byte there lowest (R52). -/
def State.halfAt (s : State) (a : Word) : Option (BitVec 16) :=
  match s.byteAt a, s.byteAt (a + 1) with
  | some b0, some b1 => some (b1 ++ b0)
  | _, _ => none

/-- The word at an address, the byte there lowest (R52). -/
def State.wordAt (s : State) (a : Word) : Option Word :=
  match s.byteAt a, s.byteAt (a + 1), s.byteAt (a + 2), s.byteAt (a + 3) with
  | some b0, some b1, some b2, some b3 => some (b3 ++ b2 ++ b1 ++ b0)
  | _, _, _, _ => none

/-- The value of an access of a width, extended with zeros to 32 bits; none where one of its bytes
has no value (R51, R52). -/
def State.valueAt (s : State) (a : Word) : Width → Option Word
  | .byte => (s.byteAt a).map (BitVec.setWidth 32)
  | .half => (s.halfAt a).map (BitVec.setWidth 32)
  | .word => s.wordAt a

/-- Stores the low bits of a value at an address, lowest byte first (R52, R56). -/
def State.store (s : State) (a : Word) (w : Width) (v : Word) : State :=
  match w with
  | .byte => s.storeByte a (v.extractLsb' 0 8)
  | .half => (s.storeByte a (v.extractLsb' 0 8)).storeByte (a + 1) (v.extractLsb' 8 8)
  | .word =>
    (((s.storeByte a (v.extractLsb' 0 8)).storeByte (a + 1) (v.extractLsb' 8 8)).storeByte (a + 2)
      (v.extractLsb' 16 8)).storeByte (a + 3) (v.extractLsb' 24 8)

/-- The oracle `Access(addr, n, kind, priv)` answers `abort` (R56, R66). -/
def State.denied (s : State) (a : Word) (w : Width) (k : AccessKind) (p : Priv) : Bool :=
  s.denials.any fun d =>
    decide (d.first ≤ a) && decide (a ≤ d.last) && decide (d.width = w) && decide (d.kind = k) &&
      decide (d.priv = p)

/-! ## Results of the parts of an instruction -/

/-- What a part of an instruction comes to: a value, a Data Abort to be taken, a fault or a
refusal. -/
inductive Res (α : Type) where
  | ok (a : α)
  | abort (i : AbortInfo)
  | fault (f : Fault)
  | refuse (r : Refusal)
  deriving DecidableEq, Repr

/-- Goes on with the value; any other result ends the instruction. -/
def Res.bind {α β : Type} (x : Res α) (f : α → Res β) : Res β :=
  match x with
  | .ok a => f a
  | .abort i => .abort i
  | .fault e => .fault e
  | .refuse r => .refuse r

/-- `MemRead(addr, n)` with a privilege (R56); a byte that has no value faults (R40). -/
def State.memRead (s : State) (p : Priv) (a : Word) (w : Width) : Res Word :=
  if s.denied a w .read p then .abort ⟨.permission, a⟩
  else
    match s.valueAt a w with
    | some v => .ok v
    | none => .fault .unwrittenState

/-- `MemWrite(addr, n, v)` with a privilege (R56). -/
def State.memWrite (s : State) (p : Priv) (a : Word) (w : Width) (v : Word) : Res State :=
  if s.denied a w .write p then .abort ⟨.permission, a⟩ else .ok (s.store a w v)

/-! ## Taking an exception -/

/-- The exceptions of 60_exceptions.md R220. -/
inductive Exception where
  | reset | undefined | swi | prefetchAbort | dataAbort | irq | fiq
  deriving DecidableEq, Repr

/-- The mode an exception enters (R220). -/
def Exception.mode : Exception → Mode
  | .reset => .svc
  | .undefined => .und
  | .swi => .svc
  | .prefetchAbort => .abt
  | .dataAbort => .abt
  | .irq => .irq
  | .fiq => .fiq

/-- The vector offset of an exception (R220). -/
def Exception.vector : Exception → Word
  | .reset => 0x00
  | .undefined => 0x04
  | .swi => 0x08
  | .prefetchAbort => 0x0C
  | .dataAbort => 0x10
  | .irq => 0x18
  | .fiq => 0x1C

/-- Reset and FIQ set CPSR.F (R220, R223). -/
def Exception.setsF : Exception → Bool
  | .reset => true
  | .fiq => true
  | _ => false

/-- The CPSR after entry: M of the exception, T = 0, I = 1, F = 1 for Reset and FIQ, every other bit
as it was (R223). -/
def Exception.entryCpsr (e : Exception) (old : Word) : Word :=
  (old &&& 0xFFFFFFC0) ||| (e.mode.bits.setWidth 32 ||| 0x80) ||| (if e.setsF then 0x40 else 0)

/-- Exception entry with return value `ret` (R223): CPSR, then r14 and the SPSR of the mode entered,
then the pc at the vector. -/
def State.enterException (s : State) (e : Exception) (ret : Word) : State :=
  (((s.setCpsr (e.entryCpsr s.cpsr)).setPhys e.mode.lr ret).setSpsr e.mode s.cpsr).setPc
    (Config.vectorBase + e.vector)

/-- Data Abort: records its information and saves the instruction's address + 8 (R225). -/
def State.enterDataAbort (s : State) (i : AbortInfo) : State :=
  (s.setAbort i).enterException .dataAbort (s.pc + 8)

/-- Draws any value for each physical register of a list (log 11). -/
def State.drawRegs (s : State) : List PhysReg → State
  | [] => s
  | p :: rest => ((s.setPhys p (Config.freeWord s.draws)).setDraws (s.draws + 1)).drawRegs rest

/-- All thirty physical registers. -/
def PhysReg.all : List PhysReg :=
  [.r0, .r1, .r2, .r3, .r4, .r5, .r6, .r7, .r8, .r9, .r10, .r11, .r12, .r13, .r14,
   .r8_fiq, .r9_fiq, .r10_fiq, .r11_fiq, .r12_fiq, .r13_fiq, .r14_fiq,
   .r13_svc, .r14_svc, .r13_abt, .r14_abt, .r13_und, .r14_und, .r13_irq, .r14_irq]

/-- The reset input in a running machine (R228): the state of 10_state.md R40. What R40 leaves
unspecified (registers, SPSRs, flags and bits 27:8 of the CPSR) holds any value; C1_OTHER stays the
constant it is; memory and its written bytes stay: DESIGN CHOICE, log 7, unsafe. -/
def State.enterReset (s : State) : State :=
  let t := s.drawRegs PhysReg.all
  let k := t.draws
  { t with
    pc := Config.vectorBase + Exception.reset.vector
    cpsr := (Config.freeWord k &&& 0xFFFFFF00) ||| 0xD3
    spsrSvc := Config.freeWord (k + 1)
    spsrAbt := Config.freeWord (k + 2)
    spsrUnd := Config.freeWord (k + 3)
    spsrIrq := Config.freeWord (k + 4)
    spsrFiq := Config.freeWord (k + 5)
    cp15c1 := s.cp15c1 &&& 0xFFFFFFFD
    abortInfo := none
    bankHazard := false
    draws := k + 6 }

/-! ## Ending an instruction -/

/-- The instruction does not write the pc: the next one follows; past 0xFFFFFFFC there is none
(10_state.md R24). -/
def State.advance (s : State) : Res State :=
  if s.pc = 0xFFFFFFFC then .refuse .addressWrap else .ok (s.setPc (s.pc + 4))

/-- A load of the pc: a jump to a value whose bits 1:0 are zero (R124, R171). -/
def State.jump (s : State) (v : Word) : Res State :=
  if v.extractLsb' 0 2 = 0 then .ok (s.setPc v) else .refuse .loadPcLowBits

/-- Return from an exception (R183): the CPSR takes the SPSR of the mode the instruction ran in, and
the pc the loaded value. -/
def State.returnFromException (s : State) (m : Mode) (v : Word) : Res State :=
  match s.spsr? m with
  | none => .refuse .noSpsr
  | some p =>
    if psrT p then .refuse .thumbNotInScope
    else if psrMode? p = none then .refuse .illegalMode
    else (s.setCpsr p).jump v

/-- The outcome of an instruction that began in state `s`: a Data Abort is taken with nothing of the
instruction done (R134, R225). -/
def State.conclude (s : State) : Res State → Host.Outcome State Fault Refusal
  | .ok t => .next t
  | .abort i => .next (s.enterDataAbort i)
  | .fault f => .fault f
  | .refuse r => .refused r

/-- Conditional execution (00_scope.md R9, R82): the body runs in the current mode if the condition
passed; otherwise only the pc advances. -/
def State.whenPassed (s : State) (c : Cond) (body : Mode → Res State) :
    Host.Outcome State Fault Refusal :=
  match s.mode? with
  | none => .fault .modeBitsIllegal
  | some m => s.conclude (if s.condPassed c then body m else s.advance)

end Sys2Proof.Machine
end

