-- ==== Sys2Proof/Machine/Operands.lean ====
section
/-! DEFINITION. The operand forms: offsets and addressing of single transfers, alignment, register
lists and addresses of multiple transfers, and the transfers the instructions share (spec
30_encoding.md R84 to R90, R98; 40_single_word_byte.md R120 to R134; 41_halfword_signed.md R150 to
R152; 42_multiple.md R170, R171). -/

namespace Sys2Proof.Machine

/-! ## Addressing of a single transfer -/

/-- The offset of a single transfer (R84, R85, R88, R150). -/
inductive Offset where
  | imm (v : Word)
  | reg (m : RegNum)
  | scaled (m : RegNum) (sh : ShiftKind) (amt : BitVec 5)
  deriving DecidableEq, Repr

/-- Pre-indexed, with or without `!`, or post-indexed (R122, R123, R151). -/
inductive Index where
  | pre (wb : Bool)
  | post
  deriving DecidableEq, Repr

/-- The memory operand of a single transfer: `[Rn, <offset>]{!}` or `[Rn], <offset>`. -/
structure MemOperand where
  base : RegNum
  up : Bool
  offset : Offset
  index : Index
  deriving DecidableEq, Repr

/-- A register shifted by a constant amount; amount 0 means no shift, LSR #32, ASR #32 and RRX
through C in turn (R85). -/
def shiftValue (carry : Bool) (v : Word) (sh : ShiftKind) (amt : BitVec 5) : Word :=
  match sh with
  | .lsl => v <<< amt.toNat
  | .lsr => if amt = 0 then 0 else v >>> amt.toNat
  | .asr => if amt = 0 then (if v.getLsbD 31 then 0xFFFFFFFF else 0) else v.sshiftRight amt.toNat
  | .ror => if amt = 0 then BitVec.ofBool carry ++ v.extractLsb' 1 31 else v.rotateRight amt.toNat

/-- The value of an offset (R121, R150). -/
def State.offsetValue (s : State) (m : Mode) : Offset → Word
  | .imm v => v
  | .reg r => s.readReg m r
  | .scaled r sh amt => shiftValue (psrC s.cpsr) (s.readReg m r) sh amt

/-- The offset register, if there is one. -/
def Offset.reg? : Offset → Option RegNum
  | .imm _ => none
  | .reg r => some r
  | .scaled r _ _ => some r

/-- The form writes the base register (R122, R123). -/
def MemOperand.writesBack (o : MemOperand) : Bool :=
  match o.index with
  | .pre wb => wb
  | .post => true

/-- Base plus or minus offset, modulo 2^32 (R121, R110). -/
def State.indexed (s : State) (m : Mode) (o : MemOperand) : Word :=
  if o.up then s.readReg m o.base + s.offsetValue m o.offset
  else s.readReg m o.base - s.offsetValue m o.offset

/-- The address of the access (R122, R123). -/
def State.address (s : State) (m : Mode) (o : MemOperand) : Word :=
  match o.index with
  | .pre _ => s.indexed m o
  | .post => s.readReg m o.base

/-- Writes the base register back, if the form does (R122, R123, R134). -/
def State.writeBack (s : State) (m : Mode) (o : MemOperand) (v : Word) : State :=
  if o.writesBack then s.writeReg m o.base v else s

/-- The combinations of the table of R98 for a single transfer. Only LDR and STR admit Rd = r15. -/
def MemOperand.unpredictable (o : MemOperand) (d : RegNum) (pcAdmitted : Bool) : Bool :=
  decide (o.offset.reg? = some 15) || (o.writesBack && decide (o.base = 15)) ||
    (o.writesBack && decide (o.base = d)) || (o.writesBack && decide (o.offset.reg? = some o.base)) ||
    (decide (d = 15) && !pcAdmitted)

/-! ## Alignment -/

/-- The address is a multiple of the width (R55). -/
def aligned (a : Word) : Width → Bool
  | .byte => true
  | .half => decide (a.extractLsb' 0 1 = 0)
  | .word => decide (a.extractLsb' 0 2 = 0)

/-- The alignment rules of a single transfer (R57 to R60, R62, R152): with A = 1 an unaligned access
aborts; with A = 0 an unaligned word access goes on and an unaligned half-word one is refused. -/
def State.checkAlign (s : State) (a : Word) (w : Width) : Res Unit :=
  if aligned a w then .ok ()
  else if s.alignFlag then .abort ⟨.alignment, a⟩
  else if s.params.unalignedHw then .refuse .unalignedHwNotSpecified
  else if w = .half then .refuse .unalignedHalfword
  else .ok ()

/-- The address a transfer accesses: a word transfer ignores bits 1:0 (R57, R58). -/
def accessAddr (a : Word) : Width → Word
  | .word => a &&& 0xFFFFFFFC
  | _ => a

/-! ## Single loads and stores -/

/-- What a load makes of the bytes it reads (R124, R126, R153, R157, R158). -/
inductive LoadKind where
  | word | ubyte | uhalf | sbyte | shalf
  deriving DecidableEq, Repr

/-- The width of a load. -/
def LoadKind.width : LoadKind → Width
  | .word => .word
  | .ubyte => .byte
  | .sbyte => .byte
  | .uhalf => .half
  | .shalf => .half

/-- The loaded value from the value in memory: a word rotated right by 8 times the low address bits,
a signed byte or half-word sign-extended (R57, R124, R157, R158). -/
def LoadKind.extend (k : LoadKind) (a v : Word) : Word :=
  match k with
  | .word => v.rotateRight (8 * (a.extractLsb' 0 2).toNat)
  | .ubyte => v
  | .uhalf => v
  | .sbyte => (v.extractLsb' 0 8).signExtend 32
  | .shalf => (v.extractLsb' 0 16).signExtend 32

/-- The privilege of an access: User for the T forms, else the mode's (R56, R65). -/
def accessPriv (m : Mode) (userView : Bool) : Priv := if userView then .user else m.priv

/-- Writes the loaded value: a jump for r15, else the register, and the next instruction (R124). -/
def State.finishLoad (s : State) (m : Mode) (d : RegNum) (v : Word) : Res State :=
  if d = 15 then s.jump v else (s.writeReg m d v).advance

/-- A single load: check the operands, then the alignment, read, write the base back, write Rd
(R124, R126, R128, R130, R134, R153, R157, R158). -/
def State.loadSingle (s : State) (m : Mode) (k : LoadKind) (userView : Bool) (o : MemOperand)
    (d : RegNum) (pcAdmitted : Bool) : Res State :=
  if o.unpredictable d pcAdmitted then .refuse .unpredictableOperands
  else
    let a := s.address m o
    (s.checkAlign a k.width).bind fun _ =>
      (s.memRead (accessPriv m userView) (accessAddr a k.width) k.width).bind fun v =>
        (s.writeBack m o (s.indexed m o)).finishLoad m d (k.extend a v)

/-- What is stored for a register: r15 stores pc + PC_STORE_OFFSET (R125, R171). -/
def State.storedReg (s : State) (bank : Mode) (d : RegNum) : Word :=
  if d = 15 then s.pc + s.params.pcStoreOffset.value else s.readReg bank d

/-- A single store: check the operands, then the alignment, write memory, write the base back
(R125, R127, R129, R131, R134, R154). -/
def State.storeSingle (s : State) (m : Mode) (w : Width) (userView : Bool) (o : MemOperand)
    (d : RegNum) (pcAdmitted : Bool) : Res State :=
  if o.unpredictable d pcAdmitted then .refuse .unpredictableOperands
  else
    let a := s.address m o
    (s.checkAlign a w).bind fun _ =>
      (s.memWrite (accessPriv m userView) (accessAddr a w) w (s.storedReg m d)).bind fun t =>
        (t.writeBack m o (s.indexed m o)).advance

/-! ## Multiple transfers -/

/-- The four block modes (R89, R170). -/
inductive BlockMode where
  | ia | ib | da | db
  deriving DecidableEq, Repr

/-- The register numbers of a list, ascending (R90, R171). -/
def regsOf (list : BitVec 16) : List RegNum :=
  ([0, 1, 2, 3, 4, 5, 6, 7, 8, 9, 10, 11, 12, 13, 14, 15] : List RegNum).filter fun i =>
    list.getLsbD i.toNat

/-- `start` of the table of R170 for `n` registers, before it is reduced modulo 2^32. -/
def BlockMode.startInt (b : BlockMode) (base : Word) (n : Nat) : Int :=
  match b with
  | .ia => (base.toNat : Int)
  | .ib => (base.toNat : Int) + 4
  | .da => (base.toNat : Int) - 4 * n + 4
  | .db => (base.toNat : Int) - 4 * n

/-- `start` of the table of R170: the address of the lowest word. -/
def BlockMode.start (b : BlockMode) (base : Word) (n : Nat) : Word :=
  match b with
  | .ia => base
  | .ib => base + 4
  | .da => base - 4 * BitVec.ofNat 32 n + 4
  | .db => base - 4 * BitVec.ofNat 32 n

/-- `wb` of the table of R170. -/
def BlockMode.newBase (b : BlockMode) (base : Word) (n : Nat) : Word :=
  match b with
  | .ia => base + 4 * BitVec.ofNat 32 n
  | .ib => base + 4 * BitVec.ofNat 32 n
  | .da => base - 4 * BitVec.ofNat 32 n
  | .db => base - 4 * BitVec.ofNat 32 n

/-- The range of words leaves the address space (R171, R186; DEDUCED, log 14: the sum is taken over
the integers, so a range that begins below address 0 wraps too). -/
def BlockMode.wraps (b : BlockMode) (base : Word) (n : Nat) : Bool :=
  decide (b.startInt base n < 0) || decide (4294967296 < b.startInt base n + 4 * n)

/-- Write-back with the base in the list is refused: for LDM always, for STM unless the base is the
lowest register listed (R171, R182). -/
def baseListed (isLoad : Bool) (w : Bool) (n : RegNum) (list : BitVec 16) : Bool :=
  w && list.getLsbD n.toNat && (isLoad || decide ((regsOf list).head? ≠ some n))

/-- The checks of R171, in its order. -/
def State.checkBlock (s : State) (isLoad : Bool) (b : BlockMode) (w : Bool) (n : RegNum)
    (list : BitVec 16) (base : Word) : Res Unit :=
  if list = 0 then .refuse .emptyRegisterList
  else if n = 15 then .refuse .unpredictableOperands
  else if baseListed isLoad w n list then .refuse .unpredictableOperands
  else if !aligned base .word then
    (if s.alignFlag then .abort ⟨.alignment, base⟩ else .refuse .unalignedMultiple)
  else if b.wraps base (regsOf list).length then .refuse .addressWrap
  else .ok ()

/-- `MemRead` of one word for each register, at ascending addresses (R171). -/
def State.readWords (s : State) (p : Priv) (a : Word) : List RegNum → Res (List (RegNum × Word))
  | [] => .ok []
  | i :: rest =>
    (s.memRead p a .word).bind fun v =>
      (s.readWords p (a + 4) rest).bind fun vs => .ok ((i, v) :: vs)

/-- `MemWrite` of the words, at ascending addresses (R171). -/
def State.writeWords (s : State) (p : Priv) (a : Word) : List Word → Res State
  | [] => .ok s
  | v :: rest => (s.memWrite p a .word v).bind fun t => t.writeWords p (a + 4) rest

/-- The value loaded for r15, if it is in the list. -/
def pcValue (vs : List (RegNum × Word)) : Option Word :=
  (vs.find? fun x => decide (x.1 = 15)).map Prod.snd

/-- The registers of an aborted LDM that hold any value: those of the list, in the bank they are
loaded to, but for the base register and the pc (R171; log 12). -/
def clobbered (bank m : Mode) (n : RegNum) (rs : List RegNum) : List PhysReg :=
  (rs.filterMap (physReg bank)).filter fun p => decide (physReg m n ≠ some p)

/-- The words of an aborted STM: each holds its new value or its old one (R171; log 13). -/
def State.drawWords (s : State) (a : Word) : List Word → State
  | [] => s
  | v :: rest =>
    let t := s.setDraws (s.draws + 1)
    (if Config.freeBit s.draws then t.store a .word v else t).drawWords (a + 4) rest

/-- The common body of LDM (R171): the list is loaded into the bank of mode `bank`, the base comes
from mode `m`; `finish` ends the instruction with the value loaded for r15, if any. An access that
aborts leaves the base and the pc and draws the rest. -/
def State.loadBlock (s : State) (m bank : Mode) (b : BlockMode) (w : Bool) (n : RegNum)
    (list : BitVec 16) (finish : State → Option Word → Res State) : Res State :=
  let base := s.readReg m n
  let rs := regsOf list
  (s.checkBlock true b w n list base).bind fun _ =>
    match s.readWords m.priv (b.start base rs.length) rs with
    | .ok vs =>
      finish ((if w then s.writeReg m n (b.newBase base rs.length) else s).writeRegs bank vs)
        (pcValue vs)
    | .abort i => .ok ((s.drawRegs (clobbered bank m n rs)).enterDataAbort i)
    | .fault f => .fault f
    | .refuse r => .refuse r

/-- The common body of STM (R171): the registers of the bank of mode `bank` are stored, the base
comes from mode `m`. An access that aborts leaves the base; each word of the range is drawn. -/
def State.storeBlock (s : State) (m bank : Mode) (b : BlockMode) (w : Bool) (n : RegNum)
    (list : BitVec 16) : Res State :=
  let base := s.readReg m n
  let rs := regsOf list
  (s.checkBlock false b w n list base).bind fun _ =>
    let vals := rs.map (s.storedReg bank)
    match s.writeWords m.priv (b.start base rs.length) vals with
    | .ok t => (if w then t.writeReg m n (b.newBase base rs.length) else t).advance
    | .abort i => .ok ((s.drawWords (b.start base rs.length) vals).enterDataAbort i)
    | .fault f => .fault f
    | .refuse r => .refuse r

/-- LDM, normal form: r15 in the list is a jump (R171). -/
def State.ldm (s : State) (m : Mode) (b : BlockMode) (w : Bool) (n : RegNum) (list : BitVec 16) :
    Res State :=
  s.loadBlock m m b w n list fun t v =>
    match v with
    | some v => t.jump v
    | none => t.advance

/-- STM, normal form (R171). -/
def State.stm (s : State) (m : Mode) (b : BlockMode) (w : Bool) (n : RegNum) (list : BitVec 16) :
    Res State :=
  s.storeBlock m m b w n list

/-- LDM with `^` and the pc: exception return (R183). A list without the pc is no such instruction
(log 25). -/
def State.ldmReturn (s : State) (m : Mode) (b : BlockMode) (w : Bool) (n : RegNum)
    (list : BitVec 16) : Res State :=
  if s.spsr? m = none then .refuse .noSpsr
  else
    s.loadBlock m m b w n list fun t v =>
      match v with
      | some v => t.returnFromException m v
      | none => .refuse .notAdmitted

/-- LDM with `^` without the pc: the User bank is loaded, and the banked-register hazard begins
(R184; 70_reset_and_hazards.md R266). A list with the pc is no such instruction (log 25). -/
def State.ldmUser (s : State) (m : Mode) (b : BlockMode) (n : RegNum) (list : BitVec 16) :
    Res State :=
  if list.getLsbD 15 then .refuse .notAdmitted
  else if s.spsr? m = none then .refuse .userBankFormInUserOrSystem
  else s.loadBlock m .usr b false n list fun t _ => (t.setHazard true).advance

/-- STM with `^`: the User bank is stored (R185). A list with the pc is no such instruction
(log 25). -/
def State.stmUser (s : State) (m : Mode) (b : BlockMode) (n : RegNum) (list : BitVec 16) :
    Res State :=
  if list.getLsbD 15 then .refuse .notAdmitted
  else if s.spsr? m = none then .refuse .userBankFormInUserOrSystem
  else s.storeBlock m .usr b false n list

/-! ## Swap -/

/-- SWP and SWPB (R205, R206): read, write, then Rd. A word swap at an unaligned address aborts with
A = 1 and is refused with A = 0. -/
def State.swap (s : State) (m : Mode) (w : Width) (n d r : RegNum) : Res State :=
  if n = 15 ∨ d = 15 ∨ r = 15 ∨ n = r ∨ n = d then .refuse .unpredictableOperands
  else
    let a := s.readReg m n
    if !aligned a w then
      (if s.alignFlag then .abort ⟨.alignment, a⟩ else .refuse .unalignedSwap)
    else
      (s.memRead m.priv a w).bind fun v =>
        (s.memWrite m.priv a w (s.readReg m r)).bind fun t => (t.writeReg m d v).advance

/-! ## Count leading zeros -/

/-- The number of zero bits above the highest one among the low `k` bits of a word. -/
def leadingZeros (v : Word) : Nat → Nat
  | 0 => 0
  | k + 1 => if v.getLsbD k then 0 else leadingZeros v k + 1

/-! ## CP15 -/

/-- The one CP15 register with a meaning: c1, c0, 0 (46_cp15_access.md R215 to R217). -/
def isControlReg (crn : BitVec 4) (op2 : BitVec 3) (crm : BitVec 4) : Bool :=
  decide (crn = 1) && decide (op2 = 0) && decide (crm = 0)

/-- MRC and MCR p15: Undefined Instruction in User mode first, then the register (R215 to R217). -/
def State.cp15Access (s : State) (m : Mode) (crn : BitVec 4) (d : RegNum) (op2 : BitVec 3)
    (crm : BitVec 4) (body : Res State) : Res State :=
  if m = .usr then .ok (s.enterException .undefined (s.pc + 4))
  else if !isControlReg crn op2 crm then .refuse .cp15RegisterNotModelled
  else if d = 15 then .refuse .unpredictableOperands
  else body

end Sys2Proof.Machine
end

