-- ==== Sys2Proof/Machine/CountZeros.lean ====
section
/-! DEFINITION. CLZ (spec 45_clz.md R210). With HAS_CLZ = no the word is not admitted. -/

namespace Sys2Proof.Machine

/-- CLZ, row CLZ (R210). -/
def execClz (c : Cond) (d m : RegNum) (s : State) :
    Host.Outcome State Fault Refusal :=
  if s.params.hasClz then
    s.whenPassed c fun k =>
      if d = 15 ∨ m = 15 then .refuse .unpredictableOperands
      else (s.writeReg k d (BitVec.ofNat 32 (leadingZeros (s.readReg k m) 32))).advance
  else .refused .notAdmitted

end Sys2Proof.Machine
end

