-- ==== Sys2Proof/Machine/HalfTransfer.lean ====
section
/-! DEFINITION. LDRH, STRH, LDRSB, LDRSH (spec 41_halfword_signed.md R150 to R158). -/

namespace Sys2Proof.Machine

/-- LDRH, row HSDT.imm.pre (R153). -/
def execLdrhImmPre (c : Cond) (u w : Bool) (n d : RegNum) (imm : BitVec 8) (s : State) :
    Host.Outcome State Fault Refusal :=
  s.whenPassed c fun k =>
    s.loadSingle k .uhalf false ⟨n, u, .imm (imm.setWidth 32), .pre w⟩ d false

/-- LDRH, row HSDT.imm.post (R153). -/
def execLdrhImmPost (c : Cond) (u : Bool) (n d : RegNum) (imm : BitVec 8) (s : State) :
    Host.Outcome State Fault Refusal :=
  s.whenPassed c fun k =>
    s.loadSingle k .uhalf false ⟨n, u, .imm (imm.setWidth 32), .post⟩ d false

/-- LDRH, row HSDT.reg.pre (R153). -/
def execLdrhRegPre (c : Cond) (u w : Bool) (n d m : RegNum) (s : State) :
    Host.Outcome State Fault Refusal :=
  s.whenPassed c fun k =>
    s.loadSingle k .uhalf false ⟨n, u, .reg m, .pre w⟩ d false

/-- LDRH, row HSDT.reg.post (R153). -/
def execLdrhRegPost (c : Cond) (u : Bool) (n d m : RegNum) (s : State) :
    Host.Outcome State Fault Refusal :=
  s.whenPassed c fun k =>
    s.loadSingle k .uhalf false ⟨n, u, .reg m, .post⟩ d false

/-- STRH, row HSDT.imm.pre (R154). -/
def execStrhImmPre (c : Cond) (u w : Bool) (n d : RegNum) (imm : BitVec 8) (s : State) :
    Host.Outcome State Fault Refusal :=
  s.whenPassed c fun k =>
    s.storeSingle k .half false ⟨n, u, .imm (imm.setWidth 32), .pre w⟩ d false

/-- STRH, row HSDT.imm.post (R154). -/
def execStrhImmPost (c : Cond) (u : Bool) (n d : RegNum) (imm : BitVec 8) (s : State) :
    Host.Outcome State Fault Refusal :=
  s.whenPassed c fun k =>
    s.storeSingle k .half false ⟨n, u, .imm (imm.setWidth 32), .post⟩ d false

/-- STRH, row HSDT.reg.pre (R154). -/
def execStrhRegPre (c : Cond) (u w : Bool) (n d m : RegNum) (s : State) :
    Host.Outcome State Fault Refusal :=
  s.whenPassed c fun k =>
    s.storeSingle k .half false ⟨n, u, .reg m, .pre w⟩ d false

/-- STRH, row HSDT.reg.post (R154). -/
def execStrhRegPost (c : Cond) (u : Bool) (n d m : RegNum) (s : State) :
    Host.Outcome State Fault Refusal :=
  s.whenPassed c fun k =>
    s.storeSingle k .half false ⟨n, u, .reg m, .post⟩ d false

/-- LDRSB, row HSDT.imm.pre (R157). -/
def execLdrsbImmPre (c : Cond) (u w : Bool) (n d : RegNum) (imm : BitVec 8) (s : State) :
    Host.Outcome State Fault Refusal :=
  s.whenPassed c fun k =>
    s.loadSingle k .sbyte false ⟨n, u, .imm (imm.setWidth 32), .pre w⟩ d false

/-- LDRSB, row HSDT.imm.post (R157). -/
def execLdrsbImmPost (c : Cond) (u : Bool) (n d : RegNum) (imm : BitVec 8) (s : State) :
    Host.Outcome State Fault Refusal :=
  s.whenPassed c fun k =>
    s.loadSingle k .sbyte false ⟨n, u, .imm (imm.setWidth 32), .post⟩ d false

/-- LDRSB, row HSDT.reg.pre (R157). -/
def execLdrsbRegPre (c : Cond) (u w : Bool) (n d m : RegNum) (s : State) :
    Host.Outcome State Fault Refusal :=
  s.whenPassed c fun k =>
    s.loadSingle k .sbyte false ⟨n, u, .reg m, .pre w⟩ d false

/-- LDRSB, row HSDT.reg.post (R157). -/
def execLdrsbRegPost (c : Cond) (u : Bool) (n d m : RegNum) (s : State) :
    Host.Outcome State Fault Refusal :=
  s.whenPassed c fun k =>
    s.loadSingle k .sbyte false ⟨n, u, .reg m, .post⟩ d false

/-- LDRSH, row HSDT.imm.pre (R158). -/
def execLdrshImmPre (c : Cond) (u w : Bool) (n d : RegNum) (imm : BitVec 8) (s : State) :
    Host.Outcome State Fault Refusal :=
  s.whenPassed c fun k =>
    s.loadSingle k .shalf false ⟨n, u, .imm (imm.setWidth 32), .pre w⟩ d false

/-- LDRSH, row HSDT.imm.post (R158). -/
def execLdrshImmPost (c : Cond) (u : Bool) (n d : RegNum) (imm : BitVec 8) (s : State) :
    Host.Outcome State Fault Refusal :=
  s.whenPassed c fun k =>
    s.loadSingle k .shalf false ⟨n, u, .imm (imm.setWidth 32), .post⟩ d false

/-- LDRSH, row HSDT.reg.pre (R158). -/
def execLdrshRegPre (c : Cond) (u w : Bool) (n d m : RegNum) (s : State) :
    Host.Outcome State Fault Refusal :=
  s.whenPassed c fun k =>
    s.loadSingle k .shalf false ⟨n, u, .reg m, .pre w⟩ d false

/-- LDRSH, row HSDT.reg.post (R158). -/
def execLdrshRegPost (c : Cond) (u : Bool) (n d m : RegNum) (s : State) :
    Host.Outcome State Fault Refusal :=
  s.whenPassed c fun k =>
    s.loadSingle k .shalf false ⟨n, u, .reg m, .post⟩ d false

end Sys2Proof.Machine
end

