-- ==== Sys2Proof/Machine/MultipleTransfer.lean ====
section
/-! DEFINITION. LDM and STM in all their forms (spec 42_multiple.md R170 to R186). -/

namespace Sys2Proof.Machine

/-- LDMIA, row BDT (R172). -/
def execLdmia (c : Cond) (w : Bool) (n : RegNum) (list : BitVec 16) (s : State) :
    Host.Outcome State Fault Refusal :=
  s.whenPassed c fun k => s.ldm k .ia w n list

/-- LDMIB, row BDT (R173). -/
def execLdmib (c : Cond) (w : Bool) (n : RegNum) (list : BitVec 16) (s : State) :
    Host.Outcome State Fault Refusal :=
  s.whenPassed c fun k => s.ldm k .ib w n list

/-- LDMDA, row BDT (R174). -/
def execLdmda (c : Cond) (w : Bool) (n : RegNum) (list : BitVec 16) (s : State) :
    Host.Outcome State Fault Refusal :=
  s.whenPassed c fun k => s.ldm k .da w n list

/-- LDMDB, row BDT (R175). -/
def execLdmdb (c : Cond) (w : Bool) (n : RegNum) (list : BitVec 16) (s : State) :
    Host.Outcome State Fault Refusal :=
  s.whenPassed c fun k => s.ldm k .db w n list

/-- STMIA, row BDT (R176). -/
def execStmia (c : Cond) (w : Bool) (n : RegNum) (list : BitVec 16) (s : State) :
    Host.Outcome State Fault Refusal :=
  s.whenPassed c fun k => s.stm k .ia w n list

/-- STMIB, row BDT (R177). -/
def execStmib (c : Cond) (w : Bool) (n : RegNum) (list : BitVec 16) (s : State) :
    Host.Outcome State Fault Refusal :=
  s.whenPassed c fun k => s.stm k .ib w n list

/-- STMDA, row BDT (R178). -/
def execStmda (c : Cond) (w : Bool) (n : RegNum) (list : BitVec 16) (s : State) :
    Host.Outcome State Fault Refusal :=
  s.whenPassed c fun k => s.stm k .da w n list

/-- STMDB, row BDT (R179). -/
def execStmdb (c : Cond) (w : Bool) (n : RegNum) (list : BitVec 16) (s : State) :
    Host.Outcome State Fault Refusal :=
  s.whenPassed c fun k => s.stm k .db w n list

/-- LDMIA, row BDT.S.pc (R183). -/
def execLdmiaRet (c : Cond) (w : Bool) (n : RegNum) (list : BitVec 16) (s : State) :
    Host.Outcome State Fault Refusal :=
  s.whenPassed c fun k => s.ldmReturn k .ia w n list

/-- LDMIB, row BDT.S.pc (R183). -/
def execLdmibRet (c : Cond) (w : Bool) (n : RegNum) (list : BitVec 16) (s : State) :
    Host.Outcome State Fault Refusal :=
  s.whenPassed c fun k => s.ldmReturn k .ib w n list

/-- LDMDA, row BDT.S.pc (R183). -/
def execLdmdaRet (c : Cond) (w : Bool) (n : RegNum) (list : BitVec 16) (s : State) :
    Host.Outcome State Fault Refusal :=
  s.whenPassed c fun k => s.ldmReturn k .da w n list

/-- LDMDB, row BDT.S.pc (R183). -/
def execLdmdbRet (c : Cond) (w : Bool) (n : RegNum) (list : BitVec 16) (s : State) :
    Host.Outcome State Fault Refusal :=
  s.whenPassed c fun k => s.ldmReturn k .db w n list

/-- LDMIA, row BDT.S.user (R184). -/
def execLdmiaUsr (c : Cond) (n : RegNum) (list : BitVec 16) (s : State) :
    Host.Outcome State Fault Refusal :=
  s.whenPassed c fun k => s.ldmUser k .ia n list

/-- LDMIB, row BDT.S.user (R184). -/
def execLdmibUsr (c : Cond) (n : RegNum) (list : BitVec 16) (s : State) :
    Host.Outcome State Fault Refusal :=
  s.whenPassed c fun k => s.ldmUser k .ib n list

/-- LDMDA, row BDT.S.user (R184). -/
def execLdmdaUsr (c : Cond) (n : RegNum) (list : BitVec 16) (s : State) :
    Host.Outcome State Fault Refusal :=
  s.whenPassed c fun k => s.ldmUser k .da n list

/-- LDMDB, row BDT.S.user (R184). -/
def execLdmdbUsr (c : Cond) (n : RegNum) (list : BitVec 16) (s : State) :
    Host.Outcome State Fault Refusal :=
  s.whenPassed c fun k => s.ldmUser k .db n list

/-- STMIA, row BDT.S.user (R185). -/
def execStmiaUsr (c : Cond) (n : RegNum) (list : BitVec 16) (s : State) :
    Host.Outcome State Fault Refusal :=
  s.whenPassed c fun k => s.stmUser k .ia n list

/-- STMIB, row BDT.S.user (R185). -/
def execStmibUsr (c : Cond) (n : RegNum) (list : BitVec 16) (s : State) :
    Host.Outcome State Fault Refusal :=
  s.whenPassed c fun k => s.stmUser k .ib n list

/-- STMDA, row BDT.S.user (R185). -/
def execStmdaUsr (c : Cond) (n : RegNum) (list : BitVec 16) (s : State) :
    Host.Outcome State Fault Refusal :=
  s.whenPassed c fun k => s.stmUser k .da n list

/-- STMDB, row BDT.S.user (R185). -/
def execStmdbUsr (c : Cond) (n : RegNum) (list : BitVec 16) (s : State) :
    Host.Outcome State Fault Refusal :=
  s.whenPassed c fun k => s.stmUser k .db n list

end Sys2Proof.Machine
end

