-- ==== Sys2Proof/Machine/SingleTransfer.lean ====
section
/-! DEFINITION. LDR, STR, LDRB, STRB, LDRT, STRT, LDRBT, STRBT (spec 40_single_word_byte.md R120 to R134). -/

namespace Sys2Proof.Machine

/-- LDR, row SDT.imm.pre (R124). -/
def execLdrImmPre (c : Cond) (u w : Bool) (n d : RegNum) (imm : BitVec 12) (s : State) :
    Host.Outcome State Fault Refusal :=
  s.whenPassed c fun k =>
    s.loadSingle k .word false ⟨n, u, .imm (imm.setWidth 32), .pre w⟩ d true

/-- LDR, row SDT.imm.post (R124). -/
def execLdrImmPost (c : Cond) (u : Bool) (n d : RegNum) (imm : BitVec 12) (s : State) :
    Host.Outcome State Fault Refusal :=
  s.whenPassed c fun k =>
    s.loadSingle k .word false ⟨n, u, .imm (imm.setWidth 32), .post⟩ d true

/-- LDR, row SDT.reg.pre (R124). -/
def execLdrRegPre (c : Cond) (u w : Bool) (n d : RegNum) (amt : BitVec 5) (sh : ShiftKind) (m : RegNum) (s : State) :
    Host.Outcome State Fault Refusal :=
  s.whenPassed c fun k =>
    s.loadSingle k .word false ⟨n, u, .scaled m sh amt, .pre w⟩ d true

/-- LDR, row SDT.reg.post (R124). -/
def execLdrRegPost (c : Cond) (u : Bool) (n d : RegNum) (amt : BitVec 5) (sh : ShiftKind) (m : RegNum) (s : State) :
    Host.Outcome State Fault Refusal :=
  s.whenPassed c fun k =>
    s.loadSingle k .word false ⟨n, u, .scaled m sh amt, .post⟩ d true

/-- LDRT, row SDT.imm.post.T (R128). -/
def execLdrtImm (c : Cond) (u : Bool) (n d : RegNum) (imm : BitVec 12) (s : State) :
    Host.Outcome State Fault Refusal :=
  s.whenPassed c fun k =>
    s.loadSingle k .word true ⟨n, u, .imm (imm.setWidth 32), .post⟩ d false

/-- LDRT, row SDT.reg.post.T (R128). -/
def execLdrtReg (c : Cond) (u : Bool) (n d : RegNum) (amt : BitVec 5) (sh : ShiftKind) (m : RegNum) (s : State) :
    Host.Outcome State Fault Refusal :=
  s.whenPassed c fun k =>
    s.loadSingle k .word true ⟨n, u, .scaled m sh amt, .post⟩ d false

/-- LDRB, row SDT.imm.pre (R126). -/
def execLdrbImmPre (c : Cond) (u w : Bool) (n d : RegNum) (imm : BitVec 12) (s : State) :
    Host.Outcome State Fault Refusal :=
  s.whenPassed c fun k =>
    s.loadSingle k .ubyte false ⟨n, u, .imm (imm.setWidth 32), .pre w⟩ d false

/-- LDRB, row SDT.imm.post (R126). -/
def execLdrbImmPost (c : Cond) (u : Bool) (n d : RegNum) (imm : BitVec 12) (s : State) :
    Host.Outcome State Fault Refusal :=
  s.whenPassed c fun k =>
    s.loadSingle k .ubyte false ⟨n, u, .imm (imm.setWidth 32), .post⟩ d false

/-- LDRB, row SDT.reg.pre (R126). -/
def execLdrbRegPre (c : Cond) (u w : Bool) (n d : RegNum) (amt : BitVec 5) (sh : ShiftKind) (m : RegNum) (s : State) :
    Host.Outcome State Fault Refusal :=
  s.whenPassed c fun k =>
    s.loadSingle k .ubyte false ⟨n, u, .scaled m sh amt, .pre w⟩ d false

/-- LDRB, row SDT.reg.post (R126). -/
def execLdrbRegPost (c : Cond) (u : Bool) (n d : RegNum) (amt : BitVec 5) (sh : ShiftKind) (m : RegNum) (s : State) :
    Host.Outcome State Fault Refusal :=
  s.whenPassed c fun k =>
    s.loadSingle k .ubyte false ⟨n, u, .scaled m sh amt, .post⟩ d false

/-- LDRBT, row SDT.imm.post.T (R130). -/
def execLdrbtImm (c : Cond) (u : Bool) (n d : RegNum) (imm : BitVec 12) (s : State) :
    Host.Outcome State Fault Refusal :=
  s.whenPassed c fun k =>
    s.loadSingle k .ubyte true ⟨n, u, .imm (imm.setWidth 32), .post⟩ d false

/-- LDRBT, row SDT.reg.post.T (R130). -/
def execLdrbtReg (c : Cond) (u : Bool) (n d : RegNum) (amt : BitVec 5) (sh : ShiftKind) (m : RegNum) (s : State) :
    Host.Outcome State Fault Refusal :=
  s.whenPassed c fun k =>
    s.loadSingle k .ubyte true ⟨n, u, .scaled m sh amt, .post⟩ d false

/-- STR, row SDT.imm.pre (R125). -/
def execStrImmPre (c : Cond) (u w : Bool) (n d : RegNum) (imm : BitVec 12) (s : State) :
    Host.Outcome State Fault Refusal :=
  s.whenPassed c fun k =>
    s.storeSingle k .word false ⟨n, u, .imm (imm.setWidth 32), .pre w⟩ d true

/-- STR, row SDT.imm.post (R125). -/
def execStrImmPost (c : Cond) (u : Bool) (n d : RegNum) (imm : BitVec 12) (s : State) :
    Host.Outcome State Fault Refusal :=
  s.whenPassed c fun k =>
    s.storeSingle k .word false ⟨n, u, .imm (imm.setWidth 32), .post⟩ d true

/-- STR, row SDT.reg.pre (R125). -/
def execStrRegPre (c : Cond) (u w : Bool) (n d : RegNum) (amt : BitVec 5) (sh : ShiftKind) (m : RegNum) (s : State) :
    Host.Outcome State Fault Refusal :=
  s.whenPassed c fun k =>
    s.storeSingle k .word false ⟨n, u, .scaled m sh amt, .pre w⟩ d true

/-- STR, row SDT.reg.post (R125). -/
def execStrRegPost (c : Cond) (u : Bool) (n d : RegNum) (amt : BitVec 5) (sh : ShiftKind) (m : RegNum) (s : State) :
    Host.Outcome State Fault Refusal :=
  s.whenPassed c fun k =>
    s.storeSingle k .word false ⟨n, u, .scaled m sh amt, .post⟩ d true

/-- STRT, row SDT.imm.post.T (R129). -/
def execStrtImm (c : Cond) (u : Bool) (n d : RegNum) (imm : BitVec 12) (s : State) :
    Host.Outcome State Fault Refusal :=
  s.whenPassed c fun k =>
    s.storeSingle k .word true ⟨n, u, .imm (imm.setWidth 32), .post⟩ d false

/-- STRT, row SDT.reg.post.T (R129). -/
def execStrtReg (c : Cond) (u : Bool) (n d : RegNum) (amt : BitVec 5) (sh : ShiftKind) (m : RegNum) (s : State) :
    Host.Outcome State Fault Refusal :=
  s.whenPassed c fun k =>
    s.storeSingle k .word true ⟨n, u, .scaled m sh amt, .post⟩ d false

/-- STRB, row SDT.imm.pre (R127). -/
def execStrbImmPre (c : Cond) (u w : Bool) (n d : RegNum) (imm : BitVec 12) (s : State) :
    Host.Outcome State Fault Refusal :=
  s.whenPassed c fun k =>
    s.storeSingle k .byte false ⟨n, u, .imm (imm.setWidth 32), .pre w⟩ d false

/-- STRB, row SDT.imm.post (R127). -/
def execStrbImmPost (c : Cond) (u : Bool) (n d : RegNum) (imm : BitVec 12) (s : State) :
    Host.Outcome State Fault Refusal :=
  s.whenPassed c fun k =>
    s.storeSingle k .byte false ⟨n, u, .imm (imm.setWidth 32), .post⟩ d false

/-- STRB, row SDT.reg.pre (R127). -/
def execStrbRegPre (c : Cond) (u w : Bool) (n d : RegNum) (amt : BitVec 5) (sh : ShiftKind) (m : RegNum) (s : State) :
    Host.Outcome State Fault Refusal :=
  s.whenPassed c fun k =>
    s.storeSingle k .byte false ⟨n, u, .scaled m sh amt, .pre w⟩ d false

/-- STRB, row SDT.reg.post (R127). -/
def execStrbRegPost (c : Cond) (u : Bool) (n d : RegNum) (amt : BitVec 5) (sh : ShiftKind) (m : RegNum) (s : State) :
    Host.Outcome State Fault Refusal :=
  s.whenPassed c fun k =>
    s.storeSingle k .byte false ⟨n, u, .scaled m sh amt, .post⟩ d false

/-- STRBT, row SDT.imm.post.T (R131). -/
def execStrbtImm (c : Cond) (u : Bool) (n d : RegNum) (imm : BitVec 12) (s : State) :
    Host.Outcome State Fault Refusal :=
  s.whenPassed c fun k =>
    s.storeSingle k .byte true ⟨n, u, .imm (imm.setWidth 32), .post⟩ d false

/-- STRBT, row SDT.reg.post.T (R131). -/
def execStrbtReg (c : Cond) (u : Bool) (n d : RegNum) (amt : BitVec 5) (sh : ShiftKind) (m : RegNum) (s : State) :
    Host.Outcome State Fault Refusal :=
  s.whenPassed c fun k =>
    s.storeSingle k .byte true ⟨n, u, .scaled m sh amt, .post⟩ d false

end Sys2Proof.Machine
end

