-- ==== Sys2Proof/Machine/Swap.lean ====
section
/-! DEFINITION. SWP and SWPB (spec 44_swp.md R205, R206). -/

namespace Sys2Proof.Machine

/-- SWP, row SWP (R205). -/
def execSwp (c : Cond) (n d m : RegNum) (s : State) :
    Host.Outcome State Fault Refusal :=
  s.whenPassed c fun k => s.swap k .word n d m

/-- SWPB, row SWP (R206). -/
def execSwpb (c : Cond) (n d m : RegNum) (s : State) :
    Host.Outcome State Fault Refusal :=
  s.whenPassed c fun k => s.swap k .byte n d m

end Sys2Proof.Machine
end

