-- ==== Sys2Proof/Machine/System.lean ====
section
/-! DEFINITION. SWI (spec 43_swi.md R200), MRC and MCR p15 (46_cp15_access.md R215 to R217). -/

namespace Sys2Proof.Machine

/-- SWI, row SWI (R200). -/
def execSwi (c : Cond) (_imm : BitVec 24) (s : State) :
    Host.Outcome State Fault Refusal :=
  s.whenPassed c fun _ => .ok (s.enterException .swi (s.pc + 4))

/-- MRC, row CPRT (R215). -/
def execMrc (c : Cond) (crn : BitVec 4) (d : RegNum) (op2 : BitVec 3) (crm : BitVec 4) (s : State) :
    Host.Outcome State Fault Refusal :=
  s.whenPassed c fun k =>
    s.cp15Access k crn d op2 crm (s.writeReg k d s.cp15c1).advance

/-- MCR, row CPRT (R216). -/
def execMcr (c : Cond) (crn : BitVec 4) (d : RegNum) (op2 : BitVec 3) (crm : BitVec 4) (s : State) :
    Host.Outcome State Fault Refusal :=
  s.whenPassed c fun k =>
    s.cp15Access k crn d op2 crm
      (if s.readReg k d &&& 0xFFFFFFFD = s.cp15c1 &&& 0xFFFFFFFD then
        (s.setCp15c1 (s.readReg k d)).advance
      else .refuse .cp15ControlBitsNotModelled)

end Sys2Proof.Machine
end

