-- ==== Sys2Proof/Machine/Dispatch.lean ====
section
/-! DEFINITION. The instruction's meaning, one arm per constructor (spec 00_scope.md R9). -/

namespace Sys2Proof.Machine

def exec (i : Instr) (s : State) : Host.Outcome State Fault Refusal :=
  match i with
  | .ldrImmPre c u w n d imm => Sys2Proof.Machine.execLdrImmPre c u w n d imm s
  | .ldrImmPost c u n d imm => Sys2Proof.Machine.execLdrImmPost c u n d imm s
  | .ldrRegPre c u w n d amt sh m => Sys2Proof.Machine.execLdrRegPre c u w n d amt sh m s
  | .ldrRegPost c u n d amt sh m => Sys2Proof.Machine.execLdrRegPost c u n d amt sh m s
  | .ldrtImm c u n d imm => Sys2Proof.Machine.execLdrtImm c u n d imm s
  | .ldrtReg c u n d amt sh m => Sys2Proof.Machine.execLdrtReg c u n d amt sh m s
  | .ldrbImmPre c u w n d imm => Sys2Proof.Machine.execLdrbImmPre c u w n d imm s
  | .ldrbImmPost c u n d imm => Sys2Proof.Machine.execLdrbImmPost c u n d imm s
  | .ldrbRegPre c u w n d amt sh m => Sys2Proof.Machine.execLdrbRegPre c u w n d amt sh m s
  | .ldrbRegPost c u n d amt sh m => Sys2Proof.Machine.execLdrbRegPost c u n d amt sh m s
  | .ldrbtImm c u n d imm => Sys2Proof.Machine.execLdrbtImm c u n d imm s
  | .ldrbtReg c u n d amt sh m => Sys2Proof.Machine.execLdrbtReg c u n d amt sh m s
  | .strImmPre c u w n d imm => Sys2Proof.Machine.execStrImmPre c u w n d imm s
  | .strImmPost c u n d imm => Sys2Proof.Machine.execStrImmPost c u n d imm s
  | .strRegPre c u w n d amt sh m => Sys2Proof.Machine.execStrRegPre c u w n d amt sh m s
  | .strRegPost c u n d amt sh m => Sys2Proof.Machine.execStrRegPost c u n d amt sh m s
  | .strtImm c u n d imm => Sys2Proof.Machine.execStrtImm c u n d imm s
  | .strtReg c u n d amt sh m => Sys2Proof.Machine.execStrtReg c u n d amt sh m s
  | .strbImmPre c u w n d imm => Sys2Proof.Machine.execStrbImmPre c u w n d imm s
  | .strbImmPost c u n d imm => Sys2Proof.Machine.execStrbImmPost c u n d imm s
  | .strbRegPre c u w n d amt sh m => Sys2Proof.Machine.execStrbRegPre c u w n d amt sh m s
  | .strbRegPost c u n d amt sh m => Sys2Proof.Machine.execStrbRegPost c u n d amt sh m s
  | .strbtImm c u n d imm => Sys2Proof.Machine.execStrbtImm c u n d imm s
  | .strbtReg c u n d amt sh m => Sys2Proof.Machine.execStrbtReg c u n d amt sh m s
  | .ldrhImmPre c u w n d imm => Sys2Proof.Machine.execLdrhImmPre c u w n d imm s
  | .ldrhImmPost c u n d imm => Sys2Proof.Machine.execLdrhImmPost c u n d imm s
  | .ldrhRegPre c u w n d m => Sys2Proof.Machine.execLdrhRegPre c u w n d m s
  | .ldrhRegPost c u n d m => Sys2Proof.Machine.execLdrhRegPost c u n d m s
  | .strhImmPre c u w n d imm => Sys2Proof.Machine.execStrhImmPre c u w n d imm s
  | .strhImmPost c u n d imm => Sys2Proof.Machine.execStrhImmPost c u n d imm s
  | .strhRegPre c u w n d m => Sys2Proof.Machine.execStrhRegPre c u w n d m s
  | .strhRegPost c u n d m => Sys2Proof.Machine.execStrhRegPost c u n d m s
  | .ldrsbImmPre c u w n d imm => Sys2Proof.Machine.execLdrsbImmPre c u w n d imm s
  | .ldrsbImmPost c u n d imm => Sys2Proof.Machine.execLdrsbImmPost c u n d imm s
  | .ldrsbRegPre c u w n d m => Sys2Proof.Machine.execLdrsbRegPre c u w n d m s
  | .ldrsbRegPost c u n d m => Sys2Proof.Machine.execLdrsbRegPost c u n d m s
  | .ldrshImmPre c u w n d imm => Sys2Proof.Machine.execLdrshImmPre c u w n d imm s
  | .ldrshImmPost c u n d imm => Sys2Proof.Machine.execLdrshImmPost c u n d imm s
  | .ldrshRegPre c u w n d m => Sys2Proof.Machine.execLdrshRegPre c u w n d m s
  | .ldrshRegPost c u n d m => Sys2Proof.Machine.execLdrshRegPost c u n d m s
  | .ldmia c w n list => Sys2Proof.Machine.execLdmia c w n list s
  | .ldmib c w n list => Sys2Proof.Machine.execLdmib c w n list s
  | .ldmda c w n list => Sys2Proof.Machine.execLdmda c w n list s
  | .ldmdb c w n list => Sys2Proof.Machine.execLdmdb c w n list s
  | .stmia c w n list => Sys2Proof.Machine.execStmia c w n list s
  | .stmib c w n list => Sys2Proof.Machine.execStmib c w n list s
  | .stmda c w n list => Sys2Proof.Machine.execStmda c w n list s
  | .stmdb c w n list => Sys2Proof.Machine.execStmdb c w n list s
  | .ldmiaRet c w n list => Sys2Proof.Machine.execLdmiaRet c w n list s
  | .ldmibRet c w n list => Sys2Proof.Machine.execLdmibRet c w n list s
  | .ldmdaRet c w n list => Sys2Proof.Machine.execLdmdaRet c w n list s
  | .ldmdbRet c w n list => Sys2Proof.Machine.execLdmdbRet c w n list s
  | .ldmiaUsr c n list => Sys2Proof.Machine.execLdmiaUsr c n list s
  | .ldmibUsr c n list => Sys2Proof.Machine.execLdmibUsr c n list s
  | .ldmdaUsr c n list => Sys2Proof.Machine.execLdmdaUsr c n list s
  | .ldmdbUsr c n list => Sys2Proof.Machine.execLdmdbUsr c n list s
  | .stmiaUsr c n list => Sys2Proof.Machine.execStmiaUsr c n list s
  | .stmibUsr c n list => Sys2Proof.Machine.execStmibUsr c n list s
  | .stmdaUsr c n list => Sys2Proof.Machine.execStmdaUsr c n list s
  | .stmdbUsr c n list => Sys2Proof.Machine.execStmdbUsr c n list s
  | .swi c imm => Sys2Proof.Machine.execSwi c imm s
  | .swp c n d m => Sys2Proof.Machine.execSwp c n d m s
  | .swpb c n d m => Sys2Proof.Machine.execSwpb c n d m s
  | .clz c d m => Sys2Proof.Machine.execClz c d m s
  | .mrc c crn d op2 crm => Sys2Proof.Machine.execMrc c crn d op2 crm s
  | .mcr c crn d op2 crm => Sys2Proof.Machine.execMcr c crn d op2 crm s

end Sys2Proof.Machine
end

