-- ==== Sys2Proof/WellFormed.lean ====
section
/-! DEFINITION. Which terms of Instr stand for instruction words. The types of the fields already
fit the encoding. What is left is bit 15 of the register list of the two `^` forms
(spec 42_multiple.md R183 to R185). -/

namespace Sys2Proof

/-- The term is the reading of some instruction word: `^` with the pc has bit 15 of its list set
(R183, row BDT.S.pc), the User-bank forms have it clear (R184, R185, rows BDT.S.user). -/
def Instr.wellFormed : Instr → Bool
  | .ldrImmPre _ _ _ _ _ _ => true
  | .ldrImmPost _ _ _ _ _ => true
  | .ldrRegPre _ _ _ _ _ _ _ _ => true
  | .ldrRegPost _ _ _ _ _ _ _ => true
  | .ldrtImm _ _ _ _ _ => true
  | .ldrtReg _ _ _ _ _ _ _ => true
  | .ldrbImmPre _ _ _ _ _ _ => true
  | .ldrbImmPost _ _ _ _ _ => true
  | .ldrbRegPre _ _ _ _ _ _ _ _ => true
  | .ldrbRegPost _ _ _ _ _ _ _ => true
  | .ldrbtImm _ _ _ _ _ => true
  | .ldrbtReg _ _ _ _ _ _ _ => true
  | .strImmPre _ _ _ _ _ _ => true
  | .strImmPost _ _ _ _ _ => true
  | .strRegPre _ _ _ _ _ _ _ _ => true
  | .strRegPost _ _ _ _ _ _ _ => true
  | .strtImm _ _ _ _ _ => true
  | .strtReg _ _ _ _ _ _ _ => true
  | .strbImmPre _ _ _ _ _ _ => true
  | .strbImmPost _ _ _ _ _ => true
  | .strbRegPre _ _ _ _ _ _ _ _ => true
  | .strbRegPost _ _ _ _ _ _ _ => true
  | .strbtImm _ _ _ _ _ => true
  | .strbtReg _ _ _ _ _ _ _ => true
  | .ldrhImmPre _ _ _ _ _ _ => true
  | .ldrhImmPost _ _ _ _ _ => true
  | .ldrhRegPre _ _ _ _ _ _ => true
  | .ldrhRegPost _ _ _ _ _ => true
  | .strhImmPre _ _ _ _ _ _ => true
  | .strhImmPost _ _ _ _ _ => true
  | .strhRegPre _ _ _ _ _ _ => true
  | .strhRegPost _ _ _ _ _ => true
  | .ldrsbImmPre _ _ _ _ _ _ => true
  | .ldrsbImmPost _ _ _ _ _ => true
  | .ldrsbRegPre _ _ _ _ _ _ => true
  | .ldrsbRegPost _ _ _ _ _ => true
  | .ldrshImmPre _ _ _ _ _ _ => true
  | .ldrshImmPost _ _ _ _ _ => true
  | .ldrshRegPre _ _ _ _ _ _ => true
  | .ldrshRegPost _ _ _ _ _ => true
  | .ldmia _ _ _ _ => true
  | .ldmib _ _ _ _ => true
  | .ldmda _ _ _ _ => true
  | .ldmdb _ _ _ _ => true
  | .stmia _ _ _ _ => true
  | .stmib _ _ _ _ => true
  | .stmda _ _ _ _ => true
  | .stmdb _ _ _ _ => true
  | .ldmiaRet _ _ _ list => list.getLsbD 15
  | .ldmibRet _ _ _ list => list.getLsbD 15
  | .ldmdaRet _ _ _ list => list.getLsbD 15
  | .ldmdbRet _ _ _ list => list.getLsbD 15
  | .ldmiaUsr _ _ list => !list.getLsbD 15
  | .ldmibUsr _ _ list => !list.getLsbD 15
  | .ldmdaUsr _ _ list => !list.getLsbD 15
  | .ldmdbUsr _ _ list => !list.getLsbD 15
  | .stmiaUsr _ _ list => !list.getLsbD 15
  | .stmibUsr _ _ list => !list.getLsbD 15
  | .stmdaUsr _ _ list => !list.getLsbD 15
  | .stmdbUsr _ _ list => !list.getLsbD 15
  | .swi _ _ => true
  | .swp _ _ _ _ => true
  | .swpb _ _ _ _ => true
  | .clz _ _ _ => true
  | .mrc _ _ _ _ _ => true
  | .mcr _ _ _ _ _ => true

end Sys2Proof
end

