-- ==== Sys2Proof/Decode.lean ====
section
/-! DEFINITION. From words to instructions and back (spec 30_encoding.md R80 to R97). -/

namespace Sys2Proof

/-- The condition field 0b0000 to 0b1110 (R82); 0b1111 is no condition. -/
def Cond.ofBits (b : BitVec 4) : Option Cond :=
  match b.toNat with
  | 0 => some .eq
  | 1 => some .ne
  | 2 => some .cs
  | 3 => some .cc
  | 4 => some .mi
  | 5 => some .pl
  | 6 => some .vs
  | 7 => some .vc
  | 8 => some .hi
  | 9 => some .ls
  | 10 => some .ge
  | 11 => some .lt
  | 12 => some .gt
  | 13 => some .le
  | 14 => some .al
  | _ => none

/-- The bits of a condition (R82). -/
def Cond.bits : Cond → BitVec 4
  | .eq => 0b0000
  | .ne => 0b0001
  | .cs => 0b0010
  | .cc => 0b0011
  | .mi => 0b0100
  | .pl => 0b0101
  | .vs => 0b0110
  | .vc => 0b0111
  | .hi => 0b1000
  | .ls => 0b1001
  | .ge => 0b1010
  | .lt => 0b1011
  | .gt => 0b1100
  | .le => 0b1101
  | .al => 0b1110

/-- The shift field (R85). -/
def ShiftKind.ofBits (b : BitVec 2) : ShiftKind :=
  match b.toNat with
  | 0 => .lsl
  | 1 => .lsr
  | 2 => .asr
  | _ => .ror

/-- The bits of a shift kind (R85). -/
def ShiftKind.bits : ShiftKind → BitVec 2
  | .lsl => 0b00
  | .lsr => 0b01
  | .asr => 0b10
  | .ror => 0b11

/-- Why a word is refused: its condition field is 0b1111 (R82), it matches no row of the table
(R97), or fewer than four bytes are there (R80: every instruction is one word). -/
inductive DecodeError where
  | cond1111
  | notAdmitted
  | truncated
  deriving DecidableEq, Repr

/-- The `len` bits of a word from bit `lo` up. -/
def fieldOf (w : Word) (lo len : Nat) : BitVec len := w.extractLsb' lo len

/-- Format SDT with an immediate offset, by P, B, W, L (R83, R84). -/
def decodeSdtImm (c : Cond) (w : Word) : Option Instr :=
  let u := w.getLsbD 23
  let n := fieldOf w 16 4
  let d := fieldOf w 12 4
  let imm := fieldOf w 0 12
  match w.getLsbD 24, w.getLsbD 22, w.getLsbD 21, w.getLsbD 20 with
  | true, false, wb, true => some (.ldrImmPre c u wb n d imm)
  | true, false, wb, false => some (.strImmPre c u wb n d imm)
  | true, true, wb, true => some (.ldrbImmPre c u wb n d imm)
  | true, true, wb, false => some (.strbImmPre c u wb n d imm)
  | false, false, false, true => some (.ldrImmPost c u n d imm)
  | false, false, false, false => some (.strImmPost c u n d imm)
  | false, true, false, true => some (.ldrbImmPost c u n d imm)
  | false, true, false, false => some (.strbImmPost c u n d imm)
  | false, false, true, true => some (.ldrtImm c u n d imm)
  | false, false, true, false => some (.strtImm c u n d imm)
  | false, true, true, true => some (.ldrbtImm c u n d imm)
  | false, true, true, false => some (.strbtImm c u n d imm)

/-- Format SDT with a register offset; bit 4 = 1 is not admitted (R83, R85, R97). -/
def decodeSdtReg (c : Cond) (w : Word) : Option Instr :=
  let u := w.getLsbD 23
  let n := fieldOf w 16 4
  let d := fieldOf w 12 4
  let amt := fieldOf w 7 5
  let sh := ShiftKind.ofBits (fieldOf w 5 2)
  let m := fieldOf w 0 4
  match w.getLsbD 4, w.getLsbD 24, w.getLsbD 22, w.getLsbD 21, w.getLsbD 20 with
  | true, _, _, _, _ => none
  | false, true, false, wb, true => some (.ldrRegPre c u wb n d amt sh m)
  | false, true, false, wb, false => some (.strRegPre c u wb n d amt sh m)
  | false, true, true, wb, true => some (.ldrbRegPre c u wb n d amt sh m)
  | false, true, true, wb, false => some (.strbRegPre c u wb n d amt sh m)
  | false, false, false, false, true => some (.ldrRegPost c u n d amt sh m)
  | false, false, false, false, false => some (.strRegPost c u n d amt sh m)
  | false, false, true, false, true => some (.ldrbRegPost c u n d amt sh m)
  | false, false, true, false, false => some (.strbRegPost c u n d amt sh m)
  | false, false, false, true, true => some (.ldrtReg c u n d amt sh m)
  | false, false, false, true, false => some (.strtReg c u n d amt sh m)
  | false, false, true, true, true => some (.ldrbtReg c u n d amt sh m)
  | false, false, true, true, false => some (.strbtReg c u n d amt sh m)

/-- Format HSDT with an immediate offset, by L, S, H, P, W; P = 0 with W = 1 and L = 0 with S = 1
are not admitted (R87, R88, R97). -/
def decodeHsdtImm (c : Cond) (w : Word) : Option Instr :=
  let u := w.getLsbD 23
  let n := fieldOf w 16 4
  let d := fieldOf w 12 4
  let imm := fieldOf w 8 4 ++ fieldOf w 0 4
  match w.getLsbD 20, w.getLsbD 6, w.getLsbD 5, w.getLsbD 24, w.getLsbD 21 with
  | true, false, true, true, wb => some (.ldrhImmPre c u wb n d imm)
  | true, true, false, true, wb => some (.ldrsbImmPre c u wb n d imm)
  | true, true, true, true, wb => some (.ldrshImmPre c u wb n d imm)
  | false, false, true, true, wb => some (.strhImmPre c u wb n d imm)
  | true, false, true, false, false => some (.ldrhImmPost c u n d imm)
  | true, true, false, false, false => some (.ldrsbImmPost c u n d imm)
  | true, true, true, false, false => some (.ldrshImmPost c u n d imm)
  | false, false, true, false, false => some (.strhImmPost c u n d imm)
  | _, _, _, _, _ => none

/-- Format HSDT with a register offset; bits 11:8 must be zero (R87, R97). -/
def decodeHsdtReg (c : Cond) (w : Word) : Option Instr :=
  let u := w.getLsbD 23
  let n := fieldOf w 16 4
  let d := fieldOf w 12 4
  let m := fieldOf w 0 4
  if fieldOf w 8 4 = 0 then
    match w.getLsbD 20, w.getLsbD 6, w.getLsbD 5, w.getLsbD 24, w.getLsbD 21 with
    | true, false, true, true, wb => some (.ldrhRegPre c u wb n d m)
    | true, true, false, true, wb => some (.ldrsbRegPre c u wb n d m)
    | true, true, true, true, wb => some (.ldrshRegPre c u wb n d m)
    | false, false, true, true, wb => some (.strhRegPre c u wb n d m)
    | true, false, true, false, false => some (.ldrhRegPost c u n d m)
    | true, true, false, false, false => some (.ldrsbRegPost c u n d m)
    | true, true, true, false, false => some (.ldrshRegPost c u n d m)
    | false, false, true, false, false => some (.strhRegPost c u n d m)
    | _, _, _, _, _ => none
  else none

/-- Format SWP, by B (R92). -/
def decodeSwap (c : Cond) (w : Word) : Option Instr :=
  let n := fieldOf w 16 4
  let d := fieldOf w 12 4
  let m := fieldOf w 0 4
  if fieldOf w 23 2 = 0b10 ∧ fieldOf w 20 2 = 0 ∧ fieldOf w 8 4 = 0 then
    match w.getLsbD 22 with
    | false => some (.swp c n d m)
    | true => some (.swpb c n d m)
  else none

/-- Format CLZ (R93). -/
def decodeClz (c : Cond) (w : Word) : Option Instr :=
  if fieldOf w 16 9 = 0b101101111 ∧ fieldOf w 4 8 = 0b11110001 then
    some (.clz c (fieldOf w 12 4) (fieldOf w 0 4))
  else none

/-- Format BDT, by S, bit 15, P, U, W, L (R89, R183 to R185): with S = 1, W = 1 without the pc and
a store with the pc are not admitted (R97). -/
def decodeBdt (c : Cond) (w : Word) : Option Instr :=
  let n := fieldOf w 16 4
  let list := fieldOf w 0 16
  let wb := w.getLsbD 21
  match w.getLsbD 22, w.getLsbD 20, w.getLsbD 24, w.getLsbD 23 with
  | false, true, false, true => some (.ldmia c wb n list)
  | false, true, true, true => some (.ldmib c wb n list)
  | false, true, false, false => some (.ldmda c wb n list)
  | false, true, true, false => some (.ldmdb c wb n list)
  | false, false, false, true => some (.stmia c wb n list)
  | false, false, true, true => some (.stmib c wb n list)
  | false, false, false, false => some (.stmda c wb n list)
  | false, false, true, false => some (.stmdb c wb n list)
  | true, l, p, up =>
    match w.getLsbD 15, wb, l, p, up with
    | true, wb, true, false, true => some (.ldmiaRet c wb n list)
    | true, wb, true, true, true => some (.ldmibRet c wb n list)
    | true, wb, true, false, false => some (.ldmdaRet c wb n list)
    | true, wb, true, true, false => some (.ldmdbRet c wb n list)
    | false, false, true, false, true => some (.ldmiaUsr c n list)
    | false, false, true, true, true => some (.ldmibUsr c n list)
    | false, false, true, false, false => some (.ldmdaUsr c n list)
    | false, false, true, true, false => some (.ldmdbUsr c n list)
    | false, false, false, false, true => some (.stmiaUsr c n list)
    | false, false, false, true, true => some (.stmibUsr c n list)
    | false, false, false, false, false => some (.stmdaUsr c n list)
    | false, false, false, true, false => some (.stmdbUsr c n list)
    | _, _, _, _, _ => none

/-- Format CPRT, restricted to `p15, 0` (R94). -/
def decodeCprt (c : Cond) (w : Word) : Option Instr :=
  let crn := fieldOf w 16 4
  let d := fieldOf w 12 4
  let op2 := fieldOf w 5 3
  let crm := fieldOf w 0 4
  if fieldOf w 21 3 = 0 ∧ fieldOf w 8 4 = 0b1111 ∧ w.getLsbD 4 = true then
    match w.getLsbD 20 with
    | true => some (.mrc c crn d op2 crm)
    | false => some (.mcr c crn d op2 crm)
  else none

/-- Bits 27:0 of a word, after its condition: the prose table of R96. -/
def decodeBody (c : Cond) (w : Word) : Option Instr :=
  match w.getLsbD 27, w.getLsbD 26, w.getLsbD 25 with
  | false, true, false => decodeSdtImm c w
  | false, true, true => decodeSdtReg c w
  | true, false, false => decodeBdt c w
  | true, true, true =>
    match w.getLsbD 24 with
    | true => some (.swi c (fieldOf w 0 24))
    | false => decodeCprt c w
  | false, false, false =>
    match w.getLsbD 7, w.getLsbD 4 with
    | true, true =>
      if fieldOf w 5 2 = 0 then decodeSwap c w
      else
        match w.getLsbD 22 with
        | true => decodeHsdtImm c w
        | false => decodeHsdtReg c w
    | _, _ => decodeClz c w
  | _, _, _ => none

/-- The instruction of a word, or why there is none (R96, R97, R82). -/
def decodeWord (w : Word) : Except DecodeError Instr :=
  match Cond.ofBits (fieldOf w 28 4) with
  | none => .error .cond1111
  | some c =>
    match decodeBody c w with
    | none => .error .notAdmitted
    | some i => .ok i

/-- The word that four bytes hold, the byte at the lowest address first (20_memory.md R52, R53). -/
def wordOfBytes (b0 b1 b2 b3 : Byte) : Word := b3 ++ b2 ++ b1 ++ b0

/-- The bytes of a word in the order of their addresses (R52). -/
def bytesOfWord (w : Word) : List Byte :=
  [fieldOf w 0 8, fieldOf w 8 8, fieldOf w 16 8, fieldOf w 24 8]

/-- The instruction at the head of a list of bytes, with the bytes after it (R73, R80, R96). -/
def decode : List Byte → Except DecodeError (Instr × List Byte)
  | b0 :: b1 :: b2 :: b3 :: rest =>
    match decodeWord (wordOfBytes b0 b1 b2 b3) with
    | .ok i => .ok (i, rest)
    | .error e => .error e
  | _ => .error .truncated

/-- The instruction the decoder reads from an instruction whose bits are `w`, bit 0 the least
significant bit of its one word; the bits from `nbits` up are zero. -/
def decodeTableWord (nbits w : Nat) : Option Instr :=
  match decode (bytesOfWord (BitVec.ofNat 32 (w % 2 ^ nbits))) with
  | .ok (i, _) => some i
  | .error _ => none

/-! The encoder, from the same formats. -/

/-- Format SDT, immediate offset (R83, R84). -/
def encodeSdtImm (c : Cond) (p u b w l : Bool) (n d : RegNum) (imm : BitVec 12) : Word :=
  c.bits ++ 0b010#3 ++ BitVec.ofBool p ++ BitVec.ofBool u ++ BitVec.ofBool b ++ BitVec.ofBool w ++
    BitVec.ofBool l ++ n ++ d ++ imm

/-- Format SDT, register offset (R83, R85). -/
def encodeSdtReg (c : Cond) (p u b w l : Bool) (n d : RegNum) (amt : BitVec 5) (sh : ShiftKind)
    (m : RegNum) : Word :=
  c.bits ++ 0b011#3 ++ BitVec.ofBool p ++ BitVec.ofBool u ++ BitVec.ofBool b ++ BitVec.ofBool w ++
    BitVec.ofBool l ++ n ++ d ++ amt ++ sh.bits ++ 0#1 ++ m

/-- Format HSDT, immediate offset: the magnitude split over bits 11:8 and 3:0 (R87, R88). -/
def encodeHsdtImm (c : Cond) (p u w l s h : Bool) (n d : RegNum) (imm : BitVec 8) : Word :=
  c.bits ++ 0b000#3 ++ BitVec.ofBool p ++ BitVec.ofBool u ++ 1#1 ++ BitVec.ofBool w ++
    BitVec.ofBool l ++ n ++ d ++ imm.extractLsb' 4 4 ++ 1#1 ++ BitVec.ofBool s ++
    BitVec.ofBool h ++ 1#1 ++ imm.extractLsb' 0 4

/-- Format HSDT, register offset (R87). -/
def encodeHsdtReg (c : Cond) (p u w l s h : Bool) (n d m : RegNum) : Word :=
  c.bits ++ 0b000#3 ++ BitVec.ofBool p ++ BitVec.ofBool u ++ 0#1 ++ BitVec.ofBool w ++
    BitVec.ofBool l ++ n ++ d ++ 0b0000#4 ++ 1#1 ++ BitVec.ofBool s ++ BitVec.ofBool h ++ 1#1 ++ m

/-- Format BDT (R89, R90). -/
def encodeBdt (c : Cond) (p u s w l : Bool) (n : RegNum) (list : BitVec 16) : Word :=
  c.bits ++ 0b100#3 ++ BitVec.ofBool p ++ BitVec.ofBool u ++ BitVec.ofBool s ++ BitVec.ofBool w ++
    BitVec.ofBool l ++ n ++ list

/-- The word of a well-formed instruction (R83 to R94). -/
def encode : Instr → Word
  | .ldrImmPre c u w n d imm => encodeSdtImm c true u false w true n d imm
  | .ldrImmPost c u n d imm => encodeSdtImm c false u false false true n d imm
  | .ldrRegPre c u w n d amt sh m => encodeSdtReg c true u false w true n d amt sh m
  | .ldrRegPost c u n d amt sh m => encodeSdtReg c false u false false true n d amt sh m
  | .ldrtImm c u n d imm => encodeSdtImm c false u false true true n d imm
  | .ldrtReg c u n d amt sh m => encodeSdtReg c false u false true true n d amt sh m
  | .ldrbImmPre c u w n d imm => encodeSdtImm c true u true w true n d imm
  | .ldrbImmPost c u n d imm => encodeSdtImm c false u true false true n d imm
  | .ldrbRegPre c u w n d amt sh m => encodeSdtReg c true u true w true n d amt sh m
  | .ldrbRegPost c u n d amt sh m => encodeSdtReg c false u true false true n d amt sh m
  | .ldrbtImm c u n d imm => encodeSdtImm c false u true true true n d imm
  | .ldrbtReg c u n d amt sh m => encodeSdtReg c false u true true true n d amt sh m
  | .strImmPre c u w n d imm => encodeSdtImm c true u false w false n d imm
  | .strImmPost c u n d imm => encodeSdtImm c false u false false false n d imm
  | .strRegPre c u w n d amt sh m => encodeSdtReg c true u false w false n d amt sh m
  | .strRegPost c u n d amt sh m => encodeSdtReg c false u false false false n d amt sh m
  | .strtImm c u n d imm => encodeSdtImm c false u false true false n d imm
  | .strtReg c u n d amt sh m => encodeSdtReg c false u false true false n d amt sh m
  | .strbImmPre c u w n d imm => encodeSdtImm c true u true w false n d imm
  | .strbImmPost c u n d imm => encodeSdtImm c false u true false false n d imm
  | .strbRegPre c u w n d amt sh m => encodeSdtReg c true u true w false n d amt sh m
  | .strbRegPost c u n d amt sh m => encodeSdtReg c false u true false false n d amt sh m
  | .strbtImm c u n d imm => encodeSdtImm c false u true true false n d imm
  | .strbtReg c u n d amt sh m => encodeSdtReg c false u true true false n d amt sh m
  | .ldrhImmPre c u w n d imm => encodeHsdtImm c true u w true false true n d imm
  | .ldrhImmPost c u n d imm => encodeHsdtImm c false u false true false true n d imm
  | .ldrhRegPre c u w n d m => encodeHsdtReg c true u w true false true n d m
  | .ldrhRegPost c u n d m => encodeHsdtReg c false u false true false true n d m
  | .strhImmPre c u w n d imm => encodeHsdtImm c true u w false false true n d imm
  | .strhImmPost c u n d imm => encodeHsdtImm c false u false false false true n d imm
  | .strhRegPre c u w n d m => encodeHsdtReg c true u w false false true n d m
  | .strhRegPost c u n d m => encodeHsdtReg c false u false false false true n d m
  | .ldrsbImmPre c u w n d imm => encodeHsdtImm c true u w true true false n d imm
  | .ldrsbImmPost c u n d imm => encodeHsdtImm c false u false true true false n d imm
  | .ldrsbRegPre c u w n d m => encodeHsdtReg c true u w true true false n d m
  | .ldrsbRegPost c u n d m => encodeHsdtReg c false u false true true false n d m
  | .ldrshImmPre c u w n d imm => encodeHsdtImm c true u w true true true n d imm
  | .ldrshImmPost c u n d imm => encodeHsdtImm c false u false true true true n d imm
  | .ldrshRegPre c u w n d m => encodeHsdtReg c true u w true true true n d m
  | .ldrshRegPost c u n d m => encodeHsdtReg c false u false true true true n d m
  | .ldmia c w n list => encodeBdt c false true false w true n list
  | .ldmib c w n list => encodeBdt c true true false w true n list
  | .ldmda c w n list => encodeBdt c false false false w true n list
  | .ldmdb c w n list => encodeBdt c true false false w true n list
  | .stmia c w n list => encodeBdt c false true false w false n list
  | .stmib c w n list => encodeBdt c true true false w false n list
  | .stmda c w n list => encodeBdt c false false false w false n list
  | .stmdb c w n list => encodeBdt c true false false w false n list
  | .ldmiaRet c w n list => encodeBdt c false true true w true n list
  | .ldmibRet c w n list => encodeBdt c true true true w true n list
  | .ldmdaRet c w n list => encodeBdt c false false true w true n list
  | .ldmdbRet c w n list => encodeBdt c true false true w true n list
  | .ldmiaUsr c n list => encodeBdt c false true true false true n list
  | .ldmibUsr c n list => encodeBdt c true true true false true n list
  | .ldmdaUsr c n list => encodeBdt c false false true false true n list
  | .ldmdbUsr c n list => encodeBdt c true false true false true n list
  | .stmiaUsr c n list => encodeBdt c false true true false false n list
  | .stmibUsr c n list => encodeBdt c true true true false false n list
  | .stmdaUsr c n list => encodeBdt c false false true false false n list
  | .stmdbUsr c n list => encodeBdt c true false true false false n list
  | .swi c imm => c.bits ++ 0b1111#4 ++ imm
  | .swp c n d m => c.bits ++ 0b00010000#8 ++ n ++ d ++ 0b00001001#8 ++ m
  | .swpb c n d m => c.bits ++ 0b00010100#8 ++ n ++ d ++ 0b00001001#8 ++ m
  | .clz c d m => c.bits ++ 0b000101101111#12 ++ d ++ 0b11110001#8 ++ m
  | .mrc c crn d op2 crm => c.bits ++ 0b11100001#8 ++ crn ++ d ++ 0b1111#4 ++ op2 ++ 1#1 ++ crm
  | .mcr c crn d op2 crm => c.bits ++ 0b11100000#8 ++ crn ++ d ++ 0b1111#4 ++ op2 ++ 1#1 ++ crm

/-- The row of opcode_table.json an instruction stands for: its mask and its match. -/
def Instr.row : Instr → Word × Word
  | .ldrImmPre _ _ _ _ _ _ => (0x0F500000, 0x05100000)
  | .ldrImmPost _ _ _ _ _ => (0x0F700000, 0x04100000)
  | .ldrRegPre _ _ _ _ _ _ _ _ => (0x0F500010, 0x07100000)
  | .ldrRegPost _ _ _ _ _ _ _ => (0x0F700010, 0x06100000)
  | .ldrtImm _ _ _ _ _ => (0x0F700000, 0x04300000)
  | .ldrtReg _ _ _ _ _ _ _ => (0x0F700010, 0x06300000)
  | .ldrbImmPre _ _ _ _ _ _ => (0x0F500000, 0x05500000)
  | .ldrbImmPost _ _ _ _ _ => (0x0F700000, 0x04500000)
  | .ldrbRegPre _ _ _ _ _ _ _ _ => (0x0F500010, 0x07500000)
  | .ldrbRegPost _ _ _ _ _ _ _ => (0x0F700010, 0x06500000)
  | .ldrbtImm _ _ _ _ _ => (0x0F700000, 0x04700000)
  | .ldrbtReg _ _ _ _ _ _ _ => (0x0F700010, 0x06700000)
  | .strImmPre _ _ _ _ _ _ => (0x0F500000, 0x05000000)
  | .strImmPost _ _ _ _ _ => (0x0F700000, 0x04000000)
  | .strRegPre _ _ _ _ _ _ _ _ => (0x0F500010, 0x07000000)
  | .strRegPost _ _ _ _ _ _ _ => (0x0F700010, 0x06000000)
  | .strtImm _ _ _ _ _ => (0x0F700000, 0x04200000)
  | .strtReg _ _ _ _ _ _ _ => (0x0F700010, 0x06200000)
  | .strbImmPre _ _ _ _ _ _ => (0x0F500000, 0x05400000)
  | .strbImmPost _ _ _ _ _ => (0x0F700000, 0x04400000)
  | .strbRegPre _ _ _ _ _ _ _ _ => (0x0F500010, 0x07400000)
  | .strbRegPost _ _ _ _ _ _ _ => (0x0F700010, 0x06400000)
  | .strbtImm _ _ _ _ _ => (0x0F700000, 0x04600000)
  | .strbtReg _ _ _ _ _ _ _ => (0x0F700010, 0x06600000)
  | .ldrhImmPre _ _ _ _ _ _ => (0x0F5000F0, 0x015000B0)
  | .ldrhImmPost _ _ _ _ _ => (0x0F7000F0, 0x005000B0)
  | .ldrhRegPre _ _ _ _ _ _ => (0x0F500FF0, 0x011000B0)
  | .ldrhRegPost _ _ _ _ _ => (0x0F700FF0, 0x001000B0)
  | .strhImmPre _ _ _ _ _ _ => (0x0F5000F0, 0x014000B0)
  | .strhImmPost _ _ _ _ _ => (0x0F7000F0, 0x004000B0)
  | .strhRegPre _ _ _ _ _ _ => (0x0F500FF0, 0x010000B0)
  | .strhRegPost _ _ _ _ _ => (0x0F700FF0, 0x000000B0)
  | .ldrsbImmPre _ _ _ _ _ _ => (0x0F5000F0, 0x015000D0)
  | .ldrsbImmPost _ _ _ _ _ => (0x0F7000F0, 0x005000D0)
  | .ldrsbRegPre _ _ _ _ _ _ => (0x0F500FF0, 0x011000D0)
  | .ldrsbRegPost _ _ _ _ _ => (0x0F700FF0, 0x001000D0)
  | .ldrshImmPre _ _ _ _ _ _ => (0x0F5000F0, 0x015000F0)
  | .ldrshImmPost _ _ _ _ _ => (0x0F7000F0, 0x005000F0)
  | .ldrshRegPre _ _ _ _ _ _ => (0x0F500FF0, 0x011000F0)
  | .ldrshRegPost _ _ _ _ _ => (0x0F700FF0, 0x001000F0)
  | .ldmia _ _ _ _ => (0x0FD00000, 0x08900000)
  | .ldmib _ _ _ _ => (0x0FD00000, 0x09900000)
  | .ldmda _ _ _ _ => (0x0FD00000, 0x08100000)
  | .ldmdb _ _ _ _ => (0x0FD00000, 0x09100000)
  | .stmia _ _ _ _ => (0x0FD00000, 0x08800000)
  | .stmib _ _ _ _ => (0x0FD00000, 0x09800000)
  | .stmda _ _ _ _ => (0x0FD00000, 0x08000000)
  | .stmdb _ _ _ _ => (0x0FD00000, 0x09000000)
  | .ldmiaRet _ _ _ _ => (0x0FD08000, 0x08D08000)
  | .ldmibRet _ _ _ _ => (0x0FD08000, 0x09D08000)
  | .ldmdaRet _ _ _ _ => (0x0FD08000, 0x08508000)
  | .ldmdbRet _ _ _ _ => (0x0FD08000, 0x09508000)
  | .ldmiaUsr _ _ _ => (0x0FF08000, 0x08D00000)
  | .ldmibUsr _ _ _ => (0x0FF08000, 0x09D00000)
  | .ldmdaUsr _ _ _ => (0x0FF08000, 0x08500000)
  | .ldmdbUsr _ _ _ => (0x0FF08000, 0x09500000)
  | .stmiaUsr _ _ _ => (0x0FF08000, 0x08C00000)
  | .stmibUsr _ _ _ => (0x0FF08000, 0x09C00000)
  | .stmdaUsr _ _ _ => (0x0FF08000, 0x08400000)
  | .stmdbUsr _ _ _ => (0x0FF08000, 0x09400000)
  | .swi _ _ => (0x0F000000, 0x0F000000)
  | .swp _ _ _ _ => (0x0FF00FF0, 0x01000090)
  | .swpb _ _ _ _ => (0x0FF00FF0, 0x01400090)
  | .clz _ _ _ => (0x0FFF0FF0, 0x016F0F10)
  | .mrc _ _ _ _ _ => (0x0FF00F10, 0x0E100F10)
  | .mcr _ _ _ _ _ => (0x0FF00F10, 0x0E000F10)

end Sys2Proof
end

