-- ==== Sys2Proof/Machine/Fetch.lean ====
section
/-! DEFINITION. What happens before an instruction is executed: the inputs at the instruction
boundary, the fetch, and the banked-register hazard (spec 60_exceptions.md R222, R226, R229;
20_memory.md R72, R73; 70_reset_and_hazards.md R266). -/

namespace Sys2Proof.Machine

/-! ## Inputs at the boundary -/

/-- The levels of the inputs at the coming boundary; past the end of the list none is asserted
(R229, log 6). -/
def State.linesNow (s : State) : Lines := s.lines.headD ⟨false, false, false⟩

/-- The boundary is passed. -/
def State.nextLines (s : State) : State := { s with lines := s.lines.tail }

/-- The event taken at the boundary, highest priority first: Reset, FIQ unless masked by F, IRQ
unless masked by I (R222, R229). -/
def State.pending (s : State) : Option Exception :=
  if s.linesNow.reset then some .reset
  else if s.linesNow.fiq && !psrF s.cpsr then some .fiq
  else if s.linesNow.irq && !psrI s.cpsr then some .irq
  else none

/-- Takes the event: the reset input gives the state after reset (R228); an interrupt saves the
address of the next instruction + 4 (R220). -/
def State.takePending (s : State) (e : Exception) : State :=
  match e with
  | .reset => s.enterReset
  | _ => s.enterException e (s.pc + 4)

/-! ## Fetch -/

/-- A store of the run has written a byte of the word at an address (R72). -/
def State.wroteWord (s : State) (a : Word) : Bool :=
  [a, a + 1, a + 2, a + 3].any fun x => decide (x.toNat ∈ s.written)

/-- The fetch of the word at the pc (R73): `Access` may answer abort, a word a store wrote is
refused, a word with no value faults. -/
def State.fetch (s : State) : Res Word :=
  match s.mode? with
  | none => .fault .modeBitsIllegal
  | some m =>
    if psrT s.cpsr then .fault .thumbState
    else if !aligned s.pc .word then .fault .pcMisaligned
    else if s.denied s.pc .word .fetch m.priv then .abort ⟨.permission, s.pc⟩
    else if s.wroteWord s.pc then .refuse .fetchFromWrittenLocation
    else
      match s.wordAt s.pc with
      | some w => .ok w
      | none => .fault .unwrittenState

/-- The refusal a decoding error stands for (30_encoding.md R82, R97). -/
def refusalOf : DecodeError → Refusal
  | .cond1111 => .cond1111
  | .notAdmitted => .notAdmitted
  | .truncated => .notAdmitted

/-- The instruction is one of this configuration: with HAS_CLZ = no the word of a CLZ is not admitted
(45_clz.md R210, 30_encoding.md R97). -/
def State.admits (s : State) (i : Instr) : Bool :=
  match i with
  | .clz _ _ _ => s.params.hasClz
  | _ => true

/-! ## The banked-register hazard -/

/-- The register numbers an instruction names as operands, those of its list among them. -/
def operandRegs : Instr → List RegNum
  | .ldrImmPre _ _ _ n d _ => [n, d]
  | .ldrImmPost _ _ n d _ => [n, d]
  | .ldrRegPre _ _ _ n d _ _ m => [n, d, m]
  | .ldrRegPost _ _ n d _ _ m => [n, d, m]
  | .ldrtImm _ _ n d _ => [n, d]
  | .ldrtReg _ _ n d _ _ m => [n, d, m]
  | .ldrbImmPre _ _ _ n d _ => [n, d]
  | .ldrbImmPost _ _ n d _ => [n, d]
  | .ldrbRegPre _ _ _ n d _ _ m => [n, d, m]
  | .ldrbRegPost _ _ n d _ _ m => [n, d, m]
  | .ldrbtImm _ _ n d _ => [n, d]
  | .ldrbtReg _ _ n d _ _ m => [n, d, m]
  | .strImmPre _ _ _ n d _ => [n, d]
  | .strImmPost _ _ n d _ => [n, d]
  | .strRegPre _ _ _ n d _ _ m => [n, d, m]
  | .strRegPost _ _ n d _ _ m => [n, d, m]
  | .strtImm _ _ n d _ => [n, d]
  | .strtReg _ _ n d _ _ m => [n, d, m]
  | .strbImmPre _ _ _ n d _ => [n, d]
  | .strbImmPost _ _ n d _ => [n, d]
  | .strbRegPre _ _ _ n d _ _ m => [n, d, m]
  | .strbRegPost _ _ n d _ _ m => [n, d, m]
  | .strbtImm _ _ n d _ => [n, d]
  | .strbtReg _ _ n d _ _ m => [n, d, m]
  | .ldrhImmPre _ _ _ n d _ => [n, d]
  | .ldrhImmPost _ _ n d _ => [n, d]
  | .ldrhRegPre _ _ _ n d m => [n, d, m]
  | .ldrhRegPost _ _ n d m => [n, d, m]
  | .strhImmPre _ _ _ n d _ => [n, d]
  | .strhImmPost _ _ n d _ => [n, d]
  | .strhRegPre _ _ _ n d m => [n, d, m]
  | .strhRegPost _ _ n d m => [n, d, m]
  | .ldrsbImmPre _ _ _ n d _ => [n, d]
  | .ldrsbImmPost _ _ n d _ => [n, d]
  | .ldrsbRegPre _ _ _ n d m => [n, d, m]
  | .ldrsbRegPost _ _ n d m => [n, d, m]
  | .ldrshImmPre _ _ _ n d _ => [n, d]
  | .ldrshImmPost _ _ n d _ => [n, d]
  | .ldrshRegPre _ _ _ n d m => [n, d, m]
  | .ldrshRegPost _ _ n d m => [n, d, m]
  | .ldmia _ _ n list => n :: regsOf list
  | .ldmib _ _ n list => n :: regsOf list
  | .ldmda _ _ n list => n :: regsOf list
  | .ldmdb _ _ n list => n :: regsOf list
  | .stmia _ _ n list => n :: regsOf list
  | .stmib _ _ n list => n :: regsOf list
  | .stmda _ _ n list => n :: regsOf list
  | .stmdb _ _ n list => n :: regsOf list
  | .ldmiaRet _ _ n list => n :: regsOf list
  | .ldmibRet _ _ n list => n :: regsOf list
  | .ldmdaRet _ _ n list => n :: regsOf list
  | .ldmdbRet _ _ n list => n :: regsOf list
  | .ldmiaUsr _ n list => n :: regsOf list
  | .ldmibUsr _ n list => n :: regsOf list
  | .ldmdaUsr _ n list => n :: regsOf list
  | .ldmdbUsr _ n list => n :: regsOf list
  | .stmiaUsr _ n list => n :: regsOf list
  | .stmibUsr _ n list => n :: regsOf list
  | .stmdaUsr _ n list => n :: regsOf list
  | .stmdbUsr _ n list => n :: regsOf list
  | .swi _ _ => []
  | .swp _ n d m => [n, d, m]
  | .swpb _ n d m => [n, d, m]
  | .clz _ d m => [d, m]
  | .mrc _ _ d _ _ => [d]
  | .mcr _ _ d _ _ => [d]

/-- The number names a register that is banked in the mode: r13 and r14 in an exception mode, r8 to
r12 too in FIQ mode (R266, 10_state.md R21). -/
def bankedIn (m : Mode) (i : RegNum) : Bool := decide (physReg m i ≠ physReg .usr i)

/-- The instruction follows a User-bank LDM and names a banked register of the current mode (R266;
log 15). -/
def State.hazardHit (s : State) (i : Instr) : Bool :=
  s.bankHazard &&
    match s.mode? with
    | none => false
    | some m => (operandRegs i).any (bankedIn m)

end Sys2Proof.Machine
end

