-- ==== Sys2Proof/Machine/Step.lean ====
section
/-! DEFINITION. One step of the machine (spec 00_scope.md R9). -/

namespace Sys2Proof.Machine

/-- The step after the inputs of the boundary have been looked at: fetch, decode, execute (R9). A word
that is not admitted is refused before the hazard is looked at (30_encoding.md R97, 45_clz.md R210). A
fetch that aborts takes Prefetch Abort with the instruction's address + 4 saved (60_exceptions.md
R226). -/
def stepInstr (s : State) : Host.Outcome State Fault Refusal :=
  match s.fetch with
  | .abort _ => .next (s.enterException .prefetchAbort (s.pc + 4))
  | .fault f => .fault f
  | .refuse r => .refused r
  | .ok w =>
    match decodeWord w with
    | .error e => .refused (refusalOf e)
    | .ok i =>
      if !s.admits i then .refused .notAdmitted
      else if s.hazardHit i then .refused .bankedRegisterHazard else exec i (s.setHazard false)

/-- One step: an asserted and unmasked input is taken at the boundary, a step of its own (R222,
R229; log 8); otherwise one instruction is executed (R9). A big-endian configuration is refused
(20_memory.md R53). -/
def step (s : State) : Host.Outcome State Fault Refusal :=
  match s.params.endian with
  | .big => .refused .bigEndianNotSupported
  | .little =>
    match s.pending with
    | some e => .next (s.nextLines.takePending e)
    | none => stepInstr s.nextLines

/-- Gives the four bytes of a word values at an address, as part of the launch: they do not count as
written by the run (70_reset_and_hazards.md R269). -/
def State.placeWord (s : State) (a w : Word) : State :=
  let m0 := Memory.write s.mem a.toNat (fieldOf w 0 8)
  let m1 := Memory.write m0 (a + 1).toNat (fieldOf w 8 8)
  let m2 := Memory.write m1 (a + 2).toNat (fieldOf w 16 8)
  { s with
    mem := Memory.write m2 (a + 3).toNat (fieldOf w 24 8)
    written := s.written.filter fun x => decide (x ∉ [a, a + 1, a + 2, a + 3].map BitVec.toNat) }

/-- The state with an instruction, its bits from `nbits` up zero, stored where the next step fetches:
the word at the pc. -/
def State.withFetchWord (s : State) (nbits w : Nat) : State :=
  s.placeWord s.pc (BitVec.ofNat 32 (w % 2 ^ nbits))

end Sys2Proof.Machine
end

