-- ==== Sys2Proof/Machine/Run.lean ====
section
/-! DEFINITION. Launching the machine and the end of a run (spec 70_reset_and_hazards.md R269). -/

namespace Sys2Proof.Machine

/-- How a run ends, as its launch says (R269): when the pc first equals a designated exit address, or
after a number of steps. DESIGN CHOICE, log 26. -/
inductive Ending where
  | exitAddress (a : Word)
  | afterSteps (n : Nat)
  deriving DecidableEq, Repr

/-- A launch: the state the run starts from, with the program in its memory, and the ending (R269). -/
structure Launch where
  start : State
  ending : Ending
  deriving DecidableEq, Repr

/-- The launch from reset (R260). -/
def Launch.fromReset (e : Ending) : Launch := ⟨State.reset, e⟩

/-- The run is over after `k` steps in state `s`. This is looked at before the inputs of the boundary
and before the fetch, so that the instruction at the exit address is not fetched (R269; log 26). -/
def Ending.isOver (e : Ending) (k : Nat) (s : State) : Bool :=
  match e with
  | .exitAddress a => decide (s.pc = a)
  | .afterSteps n => decide (n ≤ k)

/-- What has become of a run that was followed for a number of steps. A fault or a refusal is no
state of the hardware (R269). -/
inductive RunResult where
  | ended (s : State)
  | goesOn (s : State)
  | faulted (f : Fault) (s : State)
  | refused (r : Refusal) (s : State)
  deriving DecidableEq, Repr

/-- Follows a run for at most `fuel` further steps from state `s`, which it is in after `k` steps. -/
def Ending.follow (e : Ending) : (fuel k : Nat) → State → RunResult
  | 0, k, s => if e.isOver k s then .ended s else .goesOn s
  | fuel + 1, k, s =>
    if e.isOver k s then .ended s
    else
      match step s with
      | .next t => e.follow fuel (k + 1) t
      | .fault f => .faulted f s
      | .refused r => .refused r s

/-- Follows the run of a launch for at most `fuel` steps. -/
def Launch.run (l : Launch) (fuel : Nat) : RunResult := l.ending.follow fuel 0 l.start

end Sys2Proof.Machine
end

