-- ==== Sys2Proof/Safety.lean ====
section
/-! DEFINITION. The invariant of the machine and the terms in which claims about it are made. The
terms of `Sys2Proof.Claims` say again, from the tables of the spec, which address a transfer uses and
what it changes, so that a claim does not rest on the operand forms of the machine. -/

namespace Sys2Proof.Machine

/-- The invariant: memory and the set of written addresses keep their canonical forms, every written
byte has a value, the pc is word-aligned (spec 20_memory.md R73), CPSR.M is one of the seven modes
(10_state.md R28) and CPSR.T is 0 (R25). -/
structure Inv (s : State) : Prop where
  mem : Memory.wf s.mem = true
  written : rising s.written = true
  valued : ∀ a ∈ s.written, (Memory.read? s.mem a).isSome
  aligned : s.pc.extractLsb' 0 2 = 0
  mode : s.mode?.isSome
  thumb : psrT s.cpsr = false

/-- The states a run from a state reaches, step by step. -/
inductive Reaches (s : State) : State → Prop where
  | here : Reaches s s
  | step {t u : State} : Reaches s t → Machine.step t = .next u → Reaches s u

/-- The states the run of a launch goes through, with the number of steps each is reached after; no
step is taken from a state in which the run is over (spec 70_reset_and_hazards.md R269). -/
inductive Launch.Reaches (l : Launch) : Nat → State → Prop where
  | here : l.Reaches 0 l.start
  | step {k : Nat} {s t : State} : l.Reaches k s → l.ending.isOver k s = false →
      Machine.step s = .next t → l.Reaches (k + 1) t

/-- The run of the launch ends in state `s` after `k` steps (R269). -/
structure Launch.EndsIn (l : Launch) (k : Nat) (s : State) : Prop where
  reached : l.Reaches k s
  atEnd : l.ending.isOver k s = true

/-- The step ends in a next state. -/
def Goes (s : State) : Prop := ∃ t, step s = .next t

end Sys2Proof.Machine

namespace Sys2Proof.Claims

open Sys2Proof.Machine

/-! ## When an instruction runs -/

/-- The instruction with condition `c` is executed in mode `m` (30_encoding.md R82). -/
structure Runs (s : State) (m : Mode) (c : Cond) : Prop where
  mode : s.mode? = some m
  passed : s.condPassed c = true

/-- The instruction with condition `c` is executed in mode `m` and a word follows it
(10_state.md R24). -/
structure Ready (s : State) (m : Mode) (c : Cond) : Prop where
  runs : Runs s m c
  next : s.pc ≠ 0xFFFFFFFC

/-- A read of the width at `a` is permitted and gives `v` (20_memory.md R56). -/
structure CanRead (s : State) (p : Priv) (a : Word) (w : Width) (v : Word) : Prop where
  permitted : s.denied a w .read p = false
  value : s.valueAt a w = some v

/-- A word transfer at `a` goes on: `a` is aligned, or the checks are off (R57, R58). -/
def WordGoes (s : State) (a : Word) : Prop :=
  a.toNat % 4 = 0 ∨ (s.alignFlag = false ∧ s.params.unalignedHw = false)

/-- `addr AND 0xFFFFFFFC` (R57, R58). -/
def wordBase (a : Word) : Word := a &&& 0xFFFFFFFC

/-- The `k` bytes from `a` on. -/
def span (a : Word) (k : Nat) (x : Word) : Prop := ∃ j < k, x = a + BitVec.ofNat 32 j

/-! ## What changes -/

/-- Everything but the pc, the registers of `regs` and the bytes of `bytes` is as before. -/
structure Keeps (s t : State) (regs : PhysReg → Prop) (bytes : Word → Prop) : Prop where
  regs : ∀ q, ¬ regs q → t.getPhys q = s.getPhys q
  bytes : ∀ a, ¬ bytes a → t.byteAt a = s.byteAt a
  cpsr : t.cpsr = s.cpsr
  spsr : ∀ m, t.spsr? m = s.spsr? m
  cp15c1 : t.cp15c1 = s.cp15c1
  abortInfo : t.abortInfo = s.abortInfo
  denials : t.denials = s.denials
  params : t.params = s.params
  lines : t.lines = s.lines

/-- No register. -/
def noReg (_ : PhysReg) : Prop := False

/-- No byte. -/
def noByte (_ : Word) : Prop := False

/-- `t` is `s` after the entry of an exception of mode `m`, vector `vec` and return value `ret`
(60_exceptions.md R220, R223): `fiq` says that F is set; `info` is what the last Data Abort
recorded. -/
structure Enters (s t : State) (m : Mode) (vec ret : Word) (fiq : Bool) (info : Option AbortInfo) :
    Prop where
  mode : t.mode? = some m
  pc : t.pc = vec
  link : t.readReg m 14 = ret
  saved : t.spsr? m = some s.cpsr
  thumb : psrT t.cpsr = false
  irqMask : psrI t.cpsr = true
  fiqMask : psrF t.cpsr = (fiq || psrF s.cpsr)
  flags : t.cpsr.extractLsb' 8 24 = s.cpsr.extractLsb' 8 24
  regs : ∀ q, physReg m 14 ≠ some q → t.getPhys q = s.getPhys q
  spsrs : ∀ k, k ≠ m → t.spsr? k = s.spsr? k
  bytes : ∀ a, t.byteAt a = s.byteAt a
  written : t.written = s.written
  cp15c1 : t.cp15c1 = s.cp15c1
  abortInfo : t.abortInfo = info
  denials : t.denials = s.denials
  params : t.params = s.params
  lines : t.lines = s.lines

/-- The Data Abort exception with this cause and address (R220, R225). -/
def DataAborts (s t : State) (cause : AbortCause) (a : Word) : Prop :=
  Enters s t .abt 0x10 (s.pc + 8) false (some ⟨cause, a⟩)

/-- A Data Abort with nothing of the instruction done. -/
def Aborted (s t : State) : Prop := ∃ cause a, DataAborts s t cause a

/-! ## Addresses of single transfers (40_single_word_byte.md R121 to R123, 41 R150, R151) -/

/-- The sign, the index form, the write-back, the offset's value and the offset register. -/
structure Form where
  up : Bool
  pre : Bool
  wb : Bool
  off : Word
  index : Option RegNum

/-- Base plus or minus offset. -/
def Form.indexed (f : Form) (base : Word) : Word := if f.up then base + f.off else base - f.off

/-- The access address. -/
def Form.addr (f : Form) (base : Word) : Word := if f.pre then f.indexed base else base

/-- The register combinations of 30_encoding.md R98 that a transfer of r0 to r14, and LDR and STR of
r15, must avoid. -/
structure Form.Legal (f : Form) (n d : RegNum) : Prop where
  index : f.index ≠ some 15
  base : f.wb = true → n ≠ 15 ∧ n ≠ d ∧ f.index ≠ some n

/-- The base register written back, if the form does so. -/
def Form.writeBack (f : Form) (s : State) (m : Mode) (n : RegNum) (base : Word) : State :=
  if f.wb then s.writeReg m n (f.indexed base) else s

/-- The state after a load of `v` into Rd. -/
def Form.loaded (f : Form) (s : State) (m : Mode) (n d : RegNum) (v : Word) : State :=
  ((f.writeBack s m n (s.readReg m n)).writeReg m d v).setPc (s.pc + 4)

/-- The state after a store of `v` at `a`. -/
def Form.stored (f : Form) (s : State) (m : Mode) (n : RegNum) (a : Word) (w : Width) (v : Word) :
    State :=
  (f.writeBack (s.store a w v) m n (s.readReg m n)).setPc (s.pc + 4)

/-- The registers a single transfer with destination `d` writes: Rd, and Rn where it writes back. -/
def Form.writes (f : Form) (m : Mode) (n : RegNum) (d : Option RegNum) (q : PhysReg) : Prop :=
  (∃ i, d = some i ∧ physReg m i = some q) ∨ (f.wb = true ∧ physReg m n = some q)

/-- The four operand forms of LDR, STR, LDRB, STRB. -/
inductive Sdt where
  | immPre (u w : Bool) (imm : BitVec 12)
  | immPost (u : Bool) (imm : BitVec 12)
  | regPre (u w : Bool) (amt : BitVec 5) (sh : ShiftKind) (r : RegNum)
  | regPost (u : Bool) (amt : BitVec 5) (sh : ShiftKind) (r : RegNum)

/-- The two operand forms of LDRT, STRT, LDRBT, STRBT, both post-indexed. -/
inductive SdtT where
  | imm (u : Bool) (imm : BitVec 12)
  | reg (u : Bool) (amt : BitVec 5) (sh : ShiftKind) (r : RegNum)

/-- The four operand forms of LDRH, STRH, LDRSB, LDRSH. -/
inductive Hsdt where
  | immPre (u w : Bool) (imm : BitVec 8)
  | immPost (u : Bool) (imm : BitVec 8)
  | regPre (u w : Bool) (r : RegNum)
  | regPost (u : Bool) (r : RegNum)

/-- A scaled register offset, shifted by the table of R85. -/
def scaled (s : State) (m : Mode) (amt : BitVec 5) (sh : ShiftKind) (r : RegNum) : Word :=
  shiftValue (psrC s.cpsr) (s.readReg m r) sh amt

def Sdt.form (x : Sdt) (s : State) (m : Mode) : Form :=
  match x with
  | .immPre u w imm => ⟨u, true, w, imm.setWidth 32, none⟩
  | .immPost u imm => ⟨u, false, true, imm.setWidth 32, none⟩
  | .regPre u w amt sh r => ⟨u, true, w, scaled s m amt sh r, some r⟩
  | .regPost u amt sh r => ⟨u, false, true, scaled s m amt sh r, some r⟩

def SdtT.form (x : SdtT) (s : State) (m : Mode) : Form :=
  match x with
  | .imm u k => ⟨u, false, true, k.setWidth 32, none⟩
  | .reg u amt sh r => ⟨u, false, true, scaled s m amt sh r, some r⟩

def Hsdt.form (x : Hsdt) (s : State) (m : Mode) : Form :=
  match x with
  | .immPre u w imm => ⟨u, true, w, imm.setWidth 32, none⟩
  | .immPost u imm => ⟨u, false, true, imm.setWidth 32, none⟩
  | .regPre u w r => ⟨u, true, w, s.readReg m r, some r⟩
  | .regPost u r => ⟨u, false, true, s.readReg m r, some r⟩

/-! ## The instructions by mnemonic -/

/-- LDR in its four forms. -/
def ldr (c : Cond) (n d : RegNum) : Sdt → Instr
  | .immPre u w imm => .ldrImmPre c u w n d imm
  | .immPost u imm => .ldrImmPost c u n d imm
  | .regPre u w amt sh r => .ldrRegPre c u w n d amt sh r
  | .regPost u amt sh r => .ldrRegPost c u n d amt sh r

/-- STR in its four forms. -/
def str (c : Cond) (n d : RegNum) : Sdt → Instr
  | .immPre u w imm => .strImmPre c u w n d imm
  | .immPost u imm => .strImmPost c u n d imm
  | .regPre u w amt sh r => .strRegPre c u w n d amt sh r
  | .regPost u amt sh r => .strRegPost c u n d amt sh r

/-- LDRB in its four forms. -/
def ldrb (c : Cond) (n d : RegNum) : Sdt → Instr
  | .immPre u w imm => .ldrbImmPre c u w n d imm
  | .immPost u imm => .ldrbImmPost c u n d imm
  | .regPre u w amt sh r => .ldrbRegPre c u w n d amt sh r
  | .regPost u amt sh r => .ldrbRegPost c u n d amt sh r

/-- STRB in its four forms. -/
def strb (c : Cond) (n d : RegNum) : Sdt → Instr
  | .immPre u w imm => .strbImmPre c u w n d imm
  | .immPost u imm => .strbImmPost c u n d imm
  | .regPre u w amt sh r => .strbRegPre c u w n d amt sh r
  | .regPost u amt sh r => .strbRegPost c u n d amt sh r

/-- LDRT in its two forms. -/
def ldrt (c : Cond) (n d : RegNum) : SdtT → Instr
  | .imm u imm => .ldrtImm c u n d imm
  | .reg u amt sh r => .ldrtReg c u n d amt sh r

/-- STRT in its two forms. -/
def strt (c : Cond) (n d : RegNum) : SdtT → Instr
  | .imm u imm => .strtImm c u n d imm
  | .reg u amt sh r => .strtReg c u n d amt sh r

/-- LDRBT in its two forms. -/
def ldrbt (c : Cond) (n d : RegNum) : SdtT → Instr
  | .imm u imm => .ldrbtImm c u n d imm
  | .reg u amt sh r => .ldrbtReg c u n d amt sh r

/-- STRBT in its two forms. -/
def strbt (c : Cond) (n d : RegNum) : SdtT → Instr
  | .imm u imm => .strbtImm c u n d imm
  | .reg u amt sh r => .strbtReg c u n d amt sh r

/-- LDRH in its four forms. -/
def ldrh (c : Cond) (n d : RegNum) : Hsdt → Instr
  | .immPre u w imm => .ldrhImmPre c u w n d imm
  | .immPost u imm => .ldrhImmPost c u n d imm
  | .regPre u w r => .ldrhRegPre c u w n d r
  | .regPost u r => .ldrhRegPost c u n d r

/-- STRH in its four forms. -/
def strh (c : Cond) (n d : RegNum) : Hsdt → Instr
  | .immPre u w imm => .strhImmPre c u w n d imm
  | .immPost u imm => .strhImmPost c u n d imm
  | .regPre u w r => .strhRegPre c u w n d r
  | .regPost u r => .strhRegPost c u n d r

/-- LDRSB in its four forms. -/
def ldrsb (c : Cond) (n d : RegNum) : Hsdt → Instr
  | .immPre u w imm => .ldrsbImmPre c u w n d imm
  | .immPost u imm => .ldrsbImmPost c u n d imm
  | .regPre u w r => .ldrsbRegPre c u w n d r
  | .regPost u r => .ldrsbRegPost c u n d r

/-- LDRSH in its four forms. -/
def ldrsh (c : Cond) (n d : RegNum) : Hsdt → Instr
  | .immPre u w imm => .ldrshImmPre c u w n d imm
  | .immPost u imm => .ldrshImmPost c u n d imm
  | .regPre u w r => .ldrshRegPre c u w n d r
  | .regPost u r => .ldrshRegPost c u n d r

/-- LDM in its four modes. -/
def ldm (b : BlockMode) (c : Cond) (w : Bool) (n : RegNum) (list : BitVec 16) : Instr :=
  match b with
  | .ia => .ldmia c w n list
  | .ib => .ldmib c w n list
  | .da => .ldmda c w n list
  | .db => .ldmdb c w n list

/-- STM in its four modes. -/
def stm (b : BlockMode) (c : Cond) (w : Bool) (n : RegNum) (list : BitVec 16) : Instr :=
  match b with
  | .ia => .stmia c w n list
  | .ib => .stmib c w n list
  | .da => .stmda c w n list
  | .db => .stmdb c w n list

/-- LDM with `^` and the pc, in its four modes. -/
def ldmRet (b : BlockMode) (c : Cond) (w : Bool) (n : RegNum) (list : BitVec 16) : Instr :=
  match b with
  | .ia => .ldmiaRet c w n list
  | .ib => .ldmibRet c w n list
  | .da => .ldmdaRet c w n list
  | .db => .ldmdbRet c w n list

/-- LDM with `^` without the pc, in its four modes. -/
def ldmUsr (b : BlockMode) (c : Cond) (n : RegNum) (list : BitVec 16) : Instr :=
  match b with
  | .ia => .ldmiaUsr c n list
  | .ib => .ldmibUsr c n list
  | .da => .ldmdaUsr c n list
  | .db => .ldmdbUsr c n list

/-- STM with `^`, in its four modes. -/
def stmUsr (b : BlockMode) (c : Cond) (n : RegNum) (list : BitVec 16) : Instr :=
  match b with
  | .ia => .stmiaUsr c n list
  | .ib => .stmibUsr c n list
  | .da => .stmdaUsr c n list
  | .db => .stmdbUsr c n list

/-- The five forms of a multiple transfer; `w` is the W bit. -/
inductive Block where
  | ldm (w : Bool)
  | ldmRet (w : Bool)
  | ldmUsr
  | stm (w : Bool)
  | stmUsr

def Block.instr (k : Block) (b : BlockMode) (c : Cond) (n : RegNum) (list : BitVec 16) : Instr :=
  match k with
  | .ldm w => Claims.ldm b c w n list
  | .ldmRet w => Claims.ldmRet b c w n list
  | .ldmUsr => Claims.ldmUsr b c n list
  | .stm w => Claims.stm b c w n list
  | .stmUsr => Claims.stmUsr b c n list

/-- The form is an LDM. -/
def Block.isLoad : Block → Bool
  | .ldm _ => true
  | .ldmRet _ => true
  | .ldmUsr => true
  | .stm _ => false
  | .stmUsr => false

/-- The W bit of the form. -/
def Block.writesBack : Block → Bool
  | .ldm w => w
  | .ldmRet w => w
  | .ldmUsr => false
  | .stm w => w
  | .stmUsr => false

/-- The bank of the registers transferred (R183 to R185). -/
def Block.bank (k : Block) (m : Mode) : Mode :=
  match k with
  | .ldmUsr => .usr
  | .stmUsr => .usr
  | _ => m

/-- The `^` forms need an exception mode; bit 15 of the list tells them apart (R183 to R185). -/
def Block.Admits (k : Block) (s : State) (m : Mode) (list : BitVec 16) : Prop :=
  match k with
  | .ldm _ => True
  | .stm _ => True
  | .ldmRet _ => s.spsr? m ≠ none ∧ list.getLsbD 15 = true
  | .ldmUsr => s.spsr? m ≠ none ∧ list.getLsbD 15 = false
  | .stmUsr => s.spsr? m ≠ none ∧ list.getLsbD 15 = false

/-! ## Addresses of multiple transfers (42_multiple.md R170, R171) -/

/-- Register `i` is in the list (30_encoding.md R90). -/
def listed (list : BitVec 16) (i : RegNum) : Bool := list.getLsbD i.toNat

/-- How many registers below number `k` the list names. -/
def countBelow (list : BitVec 16) : Nat → Nat
  | 0 => 0
  | k + 1 => countBelow list k + (if list.getLsbD k then 1 else 0)

/-- `n` of R170: the number of registers in the list. -/
def count (list : BitVec 16) : Nat := countBelow list 16

/-- `start` of the table of R170. -/
def startOf (b : BlockMode) (base : Word) (list : BitVec 16) : Word :=
  match b with
  | .ia => base
  | .ib => base + 4
  | .da => base - BitVec.ofNat 32 (4 * count list) + 4
  | .db => base - BitVec.ofNat 32 (4 * count list)

/-- `wb` of the table of R170. -/
def newBase (b : BlockMode) (base : Word) (list : BitVec 16) : Word :=
  match b with
  | .ia => base + BitVec.ofNat 32 (4 * count list)
  | .ib => base + BitVec.ofNat 32 (4 * count list)
  | .da => base - BitVec.ofNat 32 (4 * count list)
  | .db => base - BitVec.ofNat 32 (4 * count list)

/-- The word of register `i`: ascending registers at ascending addresses (R171). -/
def wordOf (b : BlockMode) (base : Word) (list : BitVec 16) (i : RegNum) : Word :=
  startOf b base list + BitVec.ofNat 32 (4 * countBelow list i.toNat)

/-- The words of the column "words occupy" of R170 lie in the address space. -/
def Fits (b : BlockMode) (base : Word) (list : BitVec 16) : Prop :=
  match b with
  | .ia => base.toNat + 4 * count list ≤ 4294967296
  | .ib => base.toNat + 4 + 4 * count list ≤ 4294967296
  | .da => 4 * count list ≤ base.toNat + 4
  | .db => 4 * count list ≤ base.toNat

/-- What R171 asks before the first access, but for the base in the list. -/
structure BlockReady (s : State) (m : Mode) (b : BlockMode) (n : RegNum) (list : BitVec 16) : Prop where
  nonempty : list ≠ 0
  base : n ≠ 15
  aligned : (s.readReg m n).toNat % 4 = 0
  fits : Fits b (s.readReg m n) list

/-- With write-back an LDM must not name its base, and an STM may name it only as the lowest register
listed (R182). -/
def BaseOk (load w : Bool) (n : RegNum) (list : BitVec 16) : Prop :=
  w = true → listed list n = true →
    load = false ∧ ∀ j : RegNum, j.toNat < n.toNat → listed list j = false

/-- The registers an LDM writes: those of the list in a bank, and the base with write-back. -/
def loads (bank m : Mode) (w : Bool) (n : RegNum) (list : BitVec 16) (q : PhysReg) : Prop :=
  (∃ i, listed list i = true ∧ physReg bank i = some q) ∨ (w = true ∧ physReg m n = some q)

/-- The base alone, with write-back. -/
def baseOnly (m : Mode) (w : Bool) (n : RegNum) (q : PhysReg) : Prop :=
  w = true ∧ physReg m n = some q

/-- The bytes of the words of a list. -/
def wordsOf (b : BlockMode) (base : Word) (list : BitVec 16) (x : Word) : Prop :=
  ∃ i, listed list i = true ∧ span (wordOf b base list i) 4 x

/-- What STM stores for register `i` of a bank (R171). -/
def storedValue (s : State) (bank : Mode) (i : RegNum) : Word :=
  if i = 15 then s.pc + s.params.pcStoreOffset.value else s.readReg bank i

/-! ## Runs -/

/-- No input is taken at the coming boundary (60_exceptions.md R229). -/
structure Quiet (s : State) : Prop where
  reset : s.linesNow.reset = false
  fiq : s.linesNow.fiq = true → psrF s.cpsr = true
  irq : s.linesNow.irq = true → psrI s.cpsr = true

/-- The machine is little-endian, no input is taken, and the pc is at a word that may be asked for
in mode `m`. -/
structure AtWord (s : State) (m : Mode) : Prop where
  endian : s.params.endian = .little
  quiet : Quiet s
  mode : s.mode? = some m
  thumb : psrT s.cpsr = false
  aligned : s.pc.toNat % 4 = 0

/-- The fetch gives the word `w` (20_memory.md R72, R73). -/
structure Fetches (s : State) (m : Mode) (w : Word) : Prop where
  here : AtWord s m
  permitted : s.denied s.pc .word .fetch m.priv = false
  unwritten : ∀ x, span s.pc 4 x → x.toNat ∉ s.written
  word : s.wordAt s.pc = some w

/-- The instruction restores the CPSR (42_multiple.md R183). -/
def restores : Instr → Bool
  | .ldmiaRet _ _ _ _ => true
  | .ldmibRet _ _ _ _ => true
  | .ldmdaRet _ _ _ _ => true
  | .ldmdbRet _ _ _ _ => true
  | _ => false

/-- The condition of an instruction (30_encoding.md R81). -/
def condOf : Instr → Cond
  | .ldrImmPre c _ _ _ _ _ => c
  | .ldrImmPost c _ _ _ _ => c
  | .ldrRegPre c _ _ _ _ _ _ _ => c
  | .ldrRegPost c _ _ _ _ _ _ => c
  | .ldrtImm c _ _ _ _ => c
  | .ldrtReg c _ _ _ _ _ _ => c
  | .ldrbImmPre c _ _ _ _ _ => c
  | .ldrbImmPost c _ _ _ _ => c
  | .ldrbRegPre c _ _ _ _ _ _ _ => c
  | .ldrbRegPost c _ _ _ _ _ _ => c
  | .ldrbtImm c _ _ _ _ => c
  | .ldrbtReg c _ _ _ _ _ _ => c
  | .strImmPre c _ _ _ _ _ => c
  | .strImmPost c _ _ _ _ => c
  | .strRegPre c _ _ _ _ _ _ _ => c
  | .strRegPost c _ _ _ _ _ _ => c
  | .strtImm c _ _ _ _ => c
  | .strtReg c _ _ _ _ _ _ => c
  | .strbImmPre c _ _ _ _ _ => c
  | .strbImmPost c _ _ _ _ => c
  | .strbRegPre c _ _ _ _ _ _ _ => c
  | .strbRegPost c _ _ _ _ _ _ => c
  | .strbtImm c _ _ _ _ => c
  | .strbtReg c _ _ _ _ _ _ => c
  | .ldrhImmPre c _ _ _ _ _ => c
  | .ldrhImmPost c _ _ _ _ => c
  | .ldrhRegPre c _ _ _ _ _ => c
  | .ldrhRegPost c _ _ _ _ => c
  | .strhImmPre c _ _ _ _ _ => c
  | .strhImmPost c _ _ _ _ => c
  | .strhRegPre c _ _ _ _ _ => c
  | .strhRegPost c _ _ _ _ => c
  | .ldrsbImmPre c _ _ _ _ _ => c
  | .ldrsbImmPost c _ _ _ _ => c
  | .ldrsbRegPre c _ _ _ _ _ => c
  | .ldrsbRegPost c _ _ _ _ => c
  | .ldrshImmPre c _ _ _ _ _ => c
  | .ldrshImmPost c _ _ _ _ => c
  | .ldrshRegPre c _ _ _ _ _ => c
  | .ldrshRegPost c _ _ _ _ => c
  | .ldmia c _ _ _ => c
  | .ldmib c _ _ _ => c
  | .ldmda c _ _ _ => c
  | .ldmdb c _ _ _ => c
  | .stmia c _ _ _ => c
  | .stmib c _ _ _ => c
  | .stmda c _ _ _ => c
  | .stmdb c _ _ _ => c
  | .ldmiaRet c _ _ _ => c
  | .ldmibRet c _ _ _ => c
  | .ldmdaRet c _ _ _ => c
  | .ldmdbRet c _ _ _ => c
  | .ldmiaUsr c _ _ => c
  | .ldmibUsr c _ _ => c
  | .ldmdaUsr c _ _ => c
  | .ldmdbUsr c _ _ => c
  | .stmiaUsr c _ _ => c
  | .stmibUsr c _ _ => c
  | .stmdaUsr c _ _ => c
  | .stmdbUsr c _ _ => c
  | .swi c _ => c
  | .swp c _ _ _ => c
  | .swpb c _ _ _ => c
  | .clz c _ _ => c
  | .mrc c _ _ _ _ => c
  | .mcr c _ _ _ _ => c

end Sys2Proof.Claims
end

