-- ==== Sys2Proof/Certificates/Slice0/Obligations.lean ====
section
/-! DEFINITION. The statements about the model, to be proved. The terms they use are those of
Sys2Proof/Safety.lean. -/

section Slice0

open Sys2Proof Sys2Proof.Machine Sys2Proof.Claims

/-! ## Decoding (spec 30_encoding.md) -/

/-- Decoding the word of a well-formed instruction gives it back, with every operand at every value,
whatever bytes follow. -/
def Obligations.DecodeOfEncode : Prop :=
  ∀ (i : Instr) (rest : List Byte), i.wellFormed = true →
    decode (bytesOfWord (encode i) ++ rest) = .ok (i, rest)

/-- A word that decodes is the word of the instruction it decodes to, which is well-formed. -/
def Obligations.EncodeOfDecode : Prop :=
  ∀ (w : Word) (i : Instr), decodeWord w = .ok i → i.wellFormed = true ∧ encode i = w

/-- R96: the rows of the table are pairwise disjoint, and a word whose condition is not 0b1111
decodes to an instruction of a row exactly when `(w AND mask) = match`. -/
def Obligations.DecodeTestsTheRows : Prop :=
  (∀ (w : Word) (i j : Instr), w &&& i.row.1 = i.row.2 → w &&& j.row.1 = j.row.2 → i.row = j.row) ∧
  (∀ (w : Word) (i : Instr), decodeWord w = .ok i →
    w.extractLsb' 28 4 ≠ 15 ∧ w &&& i.row.1 = i.row.2) ∧
  (∀ (w : Word) (i : Instr), w.extractLsb' 28 4 ≠ 15 → w &&& i.row.1 = i.row.2 →
    ∃ j, decodeWord w = .ok j ∧ j.row = i.row)

/-- R97, R82: a fetched word that matches no row is refused as not admitted, and one with the
condition field 0b1111 as no condition. -/
def Obligations.OtherWordsAreRefused : Prop :=
  ∀ (s : State) (m : Mode) (w : Word), Fetches s m w →
    (w.extractLsb' 28 4 = 15 → step s = .refused .cond1111) ∧
    (w.extractLsb' 28 4 ≠ 15 → (∀ i : Instr, w &&& i.row.1 ≠ i.row.2) →
      step s = .refused .notAdmitted)

/-- Words written out from the formats, one of each, and the instructions they stand for. -/
def Obligations.WrittenOutWordsDecode : Prop :=
  decodeWord (0b1110#4 ++ 0b010#3 ++ 0b11001#5 ++ 1#4 ++ 0#4 ++ 4#12) =
    .ok (.ldrImmPre .al true false 1 0 4) ∧
  decodeWord (0b0001#4 ++ 0b011#3 ++ 0b00100#5 ++ 2#4 ++ 3#4 ++ 7#5 ++ 0b10#2 ++ 0#1 ++ 9#4) =
    .ok (.strbRegPost .ne false 2 3 7 .asr 9) ∧
  decodeWord (0b1110#4 ++ 0b000#3 ++ 0b11101#5 ++ 1#4 ++ 0#4 ++ 0xA#4 ++ 0b1101#4 ++ 0x5#4) =
    .ok (.ldrsbImmPre .al true false 1 0 0xA5) ∧
  decodeWord (0b1110#4 ++ 0b100#3 ++ 0b01111#5 ++ 13#4 ++ 0x8001#16) =
    .ok (.ldmiaRet .al true 13 0x8001) ∧
  decodeWord (0b1011#4 ++ 0b1111#4 ++ 0x123456#24) = .ok (.swi .lt 0x123456) ∧
  decodeWord (0b1110#4 ++ 0b00010#5 ++ 0b100#3 ++ 2#4 ++ 0#4 ++ 0b00001001#8 ++ 1#4) =
    .ok (.swpb .al 2 0 1) ∧
  decodeWord (0b1110#4 ++ 0b000101101111#12 ++ 4#4 ++ 0b11110001#8 ++ 5#4) = .ok (.clz .al 4 5) ∧
  decodeWord (0b1110#4 ++ 0b11100001#8 ++ 1#4 ++ 6#4 ++ 15#4 ++ 2#3 ++ 1#1 ++ 3#4) =
    .ok (.mrc .al 1 6 2 3)

/-! ## One step (00_scope.md R9, 60_exceptions.md, 20_memory.md R72, R73) -/

/-- When the bytes at the pc decode to an instruction, the step is that instruction's meaning, in the
state with the boundary passed and the hazard of a User-bank LDM over. -/
def Obligations.StepRunsTheDecodedInstruction : Prop :=
  ∀ (s : State) (m : Mode) (w : Word) (i : Instr), Fetches s m w →
    decode (bytesOfWord w) = .ok (i, []) →
    (s.bankHazard = true → ∀ r ∈ operandRegs i, physReg m r = physReg .usr r) →
    step s = exec i { s with lines := s.lines.tail, bankHazard := false }

/-- R229, R222, R220: an asserted FIQ that is not masked is taken at the boundary, before an IRQ; an
asserted IRQ that is not masked is taken when no FIQ is. -/
def Obligations.InterruptsAreTakenAtTheBoundary : Prop :=
  ∀ s : State, s.params.endian = .little → s.linesNow.reset = false →
    (s.linesNow.fiq = true → psrF s.cpsr = false →
      ∃ t, step s = .next t ∧
        Enters { s with lines := s.lines.tail } t .fiq 0x1C (s.pc + 4) true s.abortInfo) ∧
    ((s.linesNow.fiq = true → psrF s.cpsr = true) → s.linesNow.irq = true → psrI s.cpsr = false →
      ∃ t, step s = .next t ∧
        Enters { s with lines := s.lines.tail } t .irq 0x18 (s.pc + 4) false s.abortInfo)

/-- R226: a fetch that `Access` denies raises Prefetch Abort, and r14_abt receives the address of the
instruction + 4. -/
def Obligations.DeniedFetchRaisesPrefetchAbort : Prop :=
  ∀ (s : State) (m : Mode), AtWord s m → s.denied s.pc .word .fetch m.priv = true →
    ∃ t, step s = .next t ∧
      Enters { s with lines := s.lines.tail } t .abt 0x0C (s.pc + 4) false s.abortInfo

/-- R72: an instruction fetched from a byte that a store of the run has written is refused. -/
def Obligations.FetchFromWrittenLocationIsRefused : Prop :=
  ∀ (s : State) (m : Mode) (x : Word), AtWord s m → s.denied s.pc .word .fetch m.priv = false →
    span s.pc 4 x → x.toNat ∈ s.written → step s = .refused .fetchFromWrittenLocation

/-- R266: after a User-bank LDM, an instruction that names a register banked in the current mode is
refused; with HAS_CLZ = no a CLZ is not admitted there as elsewhere (R210). That an instruction names a
register by its number, in a list too and whatever its condition, is the model's reading, log 15. -/
def Obligations.BankedRegisterHazardIsRefused : Prop :=
  ∀ (s : State) (m : Mode) (w : Word) (i : Instr) (r : RegNum), Fetches s m w →
    decodeWord w = .ok i → s.bankHazard = true → r ∈ operandRegs i →
    physReg m r ≠ physReg .usr r →
    ((∀ c d x, i = .clz c d x → s.params.hasClz = true) →
      step s = .refused .bankedRegisterHazard) ∧
    ((∃ c d x, i = .clz c d x) → s.params.hasClz = false → step s = .refused .notAdmitted)

/-- R228, R40: the reset input gives Supervisor mode with I = F = 1, T = 0, A = 0 and the pc at the
reset vector, whatever else is pending. That memory keeps its bytes is the model's choice, log 7. -/
def Obligations.ResetInputResets : Prop :=
  ∀ s : State, s.params.endian = .little → s.linesNow.reset = true →
    ∃ t, step s = .next t ∧ t.pc = 0 ∧ t.mode? = some .svc ∧ psrI t.cpsr = true ∧
      psrF t.cpsr = true ∧ psrT t.cpsr = false ∧ t.alignFlag = false ∧
      (∀ k, k ≠ 1 → t.cp15c1.getLsbD k = s.cp15c1.getLsbD k) ∧ ∀ a, t.byteAt a = s.byteAt a

/-- R40, R260: what the state after reset holds where the spec gives a value. -/
def Obligations.StateAfterReset : Prop :=
  State.reset.pc = 0 ∧ State.reset.mode? = some .svc ∧ psrI State.reset.cpsr = true ∧
    psrF State.reset.cpsr = true ∧ psrT State.reset.cpsr = false ∧ State.reset.alignFlag = false

/-! ## Invariants and whole-machine rules -/

/-- The state after reset satisfies the invariant. -/
def Obligations.ResetSatisfiesInv : Prop := Inv State.reset

/-- Every step keeps the invariant: memory canonical, pc word-aligned, a legal mode, T = 0. -/
def Obligations.StepKeepsInv : Prop :=
  ∀ s t : State, Inv s → step s = .next t → Inv t

/-- R233: a step from User mode stays in User mode or takes an exception of the table of R220. -/
def Obligations.UserModeIsLeftOnlyByAnException : Prop :=
  ∀ s t : State, s.mode? = some .usr → step s = .next t →
    t.mode? = some .usr ∨
      ∃ (m : Mode) (vec : Word),
        (m, vec) ∈ [(Mode.svc, (0x00 : Word)), (.und, 0x04), (.svc, 0x08), (.abt, 0x0C), (.abt, 0x10),
          (.irq, 0x18), (.fiq, 0x1C)] ∧
        t.mode? = some m ∧ t.pc = vec ∧ psrI t.cpsr = true ∧ psrT t.cpsr = false ∧
        (vec ≠ 0 → t.spsr? m = some s.cpsr)

/-- A step that stays in User mode changes no banked register of another mode, no SPSR, no bit of the
CPSR and nothing of CP15 register 1. -/
def Obligations.UserStepsKeepPrivilegedState : Prop :=
  ∀ s t : State, s.mode? = some .usr → step s = .next t → t.mode? = some .usr →
    (∀ q, (∀ i, physReg .usr i ≠ some q) → t.getPhys q = s.getPhys q) ∧
    (∀ m, t.spsr? m = s.spsr? m) ∧ t.cpsr = s.cpsr ∧ t.cp15c1 = s.cp15c1

/-- R29, R66: no step changes a bit of CP15 register 1 other than A, nor the oracle `Access`, nor the
launch parameters; each step passes one boundary of the inputs. -/
def Obligations.StepKeepsTheConstants : Prop :=
  ∀ s t : State, step s = .next t →
    (∀ k, k ≠ 1 → t.cp15c1.getLsbD k = s.cp15c1.getLsbD k) ∧
    (∀ a w k p, t.denied a w k p = s.denied a w k p) ∧ t.params = s.params ∧
    t.lines = s.lines.tail

/-- R26: no instruction writes a flag, or a reserved bit, but for a return from an exception, which
replaces the whole CPSR by the SPSR of the mode. -/
def Obligations.OnlyReturnsWriteTheFlags : Prop :=
  ∀ (i : Instr) (s t : State) (m : Mode), s.mode? = some m → exec i s = .next t →
    t.cpsr.extractLsb' 8 24 = s.cpsr.extractLsb' 8 24 ∨
      (restores i = true ∧ s.spsr? m = some t.cpsr)

/-- R72: a byte that a step changes counts as written, and so does every byte written before. For the
step that takes the reset input this is the model's choice: memory and the set of written addresses stay,
log 7 and log 16. -/
def Obligations.ChangedBytesCountAsWritten : Prop :=
  ∀ s t : State, step s = .next t →
    (∀ a : Word, t.byteAt a ≠ s.byteAt a → a.toNat ∈ t.written) ∧ ∀ x ∈ s.written, x ∈ t.written

/-! ## Conditions, registers, shifts, bytes -/

/-- R82: the condition table. -/
def Obligations.ConditionTable : Prop :=
  ∀ p : Word,
    condHolds .eq p = psrZ p ∧ condHolds .ne p = !psrZ p ∧ condHolds .cs p = psrC p ∧
    condHolds .cc p = !psrC p ∧ condHolds .mi p = psrN p ∧ condHolds .pl p = !psrN p ∧
    condHolds .vs p = psrV p ∧ condHolds .vc p = !psrV p ∧
    condHolds .hi p = (psrC p && !psrZ p) ∧ condHolds .ls p = (!psrC p || psrZ p) ∧
    condHolds .ge p = decide (psrN p = psrV p) ∧ condHolds .lt p = decide (psrN p ≠ psrV p) ∧
    condHolds .gt p = (!psrZ p && decide (psrN p = psrV p)) ∧
    condHolds .le p = (psrZ p || decide (psrN p ≠ psrV p)) ∧ condHolds .al p = true

/-- R82, R24: an instruction, of any of the 66 constructors, whose condition fails does nothing but
advance the pc; at 0xFFFFFFFC it is refused. CLZ needs HAS_CLZ. -/
def Obligations.FailedConditionOnlyAdvances : Prop :=
  ∀ (i : Instr) (s : State) (m : Mode), s.mode? = some m → s.condPassed (condOf i) = false →
    (∀ c d r, i = .clz c d r → s.params.hasClz = true) →
    (s.pc ≠ 0xFFFFFFFC → exec i s = .next { s with pc := s.pc + 4 }) ∧
    (s.pc = 0xFFFFFFFC → exec i s = .refused .addressWrap)

/-- R21 to R23: which registers two modes share, what a write to one is read back as, and that r15 is
no register of the bank: it reads as the address of the instruction + 8. -/
def Obligations.RegisterBanks : Prop :=
  (∀ (m : Mode) (i : RegNum), i ≠ 15 →
    (physReg m i = physReg .usr i ↔
      i.toNat ≤ 7 ∨ (i.toNat ≤ 12 ∧ m ≠ .fiq) ∨ m = .usr ∨ m = .sys)) ∧
  (∀ (m k : Mode) (i j : RegNum), i ≠ 15 → physReg m i = physReg k j →
    i = j ∧ (m = k ∨ physReg m i = physReg .usr i)) ∧
  (∀ (s : State) (m k : Mode) (i j : RegNum) (v : Word), i ≠ 15 → j ≠ 15 →
    (s.writeReg m i v).readReg k j = if physReg m i = physReg k j then v else s.readReg k j) ∧
  (∀ (s : State) (m : Mode) (v : Word), s.readReg m 15 = s.pc + 8 ∧ s.writeReg m 15 v = s)

/-- R85: the table of shifted register offsets. -/
def Obligations.ShiftTable : Prop :=
  ∀ (carry : Bool) (v : Word) (amt : BitVec 5),
    shiftValue carry v .lsl 0 = v ∧ shiftValue carry v .lsr 0 = 0 ∧
    shiftValue carry v .asr 0 = (if v.getLsbD 31 then 0xFFFFFFFF else 0) ∧
    shiftValue carry v .ror 0 = BitVec.ofBool carry ++ v.extractLsb' 1 31 ∧
    (amt ≠ 0 →
      shiftValue carry v .lsl amt = v <<< amt.toNat ∧ shiftValue carry v .lsr amt = v >>> amt.toNat ∧
      shiftValue carry v .asr amt = v.sshiftRight amt.toNat ∧
      shiftValue carry v .ror amt = (v >>> amt.toNat ||| v <<< (32 - amt.toNat)))

/-- R52: the byte at A is bits 7:0 of the word at A, the byte at A+1 bits 15:8, the byte at A+2 bits
23:16 and the byte at A+3 bits 31:24; of a half-word the byte at H is bits 7:0 and the byte at H+1
bits 15:8. -/
def Obligations.BytesOfWordsAndHalfwords : Prop :=
  ∀ (s : State) (a : Word),
    (∀ w, s.wordAt a = some w →
      s.byteAt a = some (w.extractLsb' 0 8) ∧ s.byteAt (a + 1) = some (w.extractLsb' 8 8) ∧
      s.byteAt (a + 2) = some (w.extractLsb' 16 8) ∧ s.byteAt (a + 3) = some (w.extractLsb' 24 8)) ∧
    (∀ h, s.halfAt a = some h →
      s.byteAt a = some (h.extractLsb' 0 8) ∧ s.byteAt (a + 1) = some (h.extractLsb' 8 8))

/-- R56: a store sets the byte at `a + k` to bits 8k+7:8k of the value, counts it as written and
leaves every other byte. -/
def Obligations.StoresWriteTheirBytes : Prop :=
  ∀ (s : State) (a v x : Word) (w : Width) (n : Nat),
    (w, n) ∈ [(Width.byte, 1), (.half, 2), (.word, 4)] →
    (∀ k < n, (s.store a w v).byteAt (a + BitVec.ofNat 32 k) = some (v.extractLsb' (8 * k) 8) ∧
      (a + BitVec.ofNat 32 k).toNat ∈ (s.store a w v).written) ∧
    (¬ span a n x → (s.store a w v).byteAt x = s.byteAt x)

/-! ## Single loads and stores (40_single_word_byte.md, 41_halfword_signed.md) -/

/-- R124, R57: LDR in its four forms (Rd not r15) loads the aligned word, rotated right by 8 times the
low address bits, writes the base back where the form does, and goes on. -/
def Obligations.LdrLoadsTheWord : Prop :=
  ∀ (s : State) (m : Mode) (c : Cond) (n d : RegNum) (x : Sdt) (v : Word), Ready s m c → d ≠ 15 →
    (x.form s m).Legal n d → WordGoes s ((x.form s m).addr (s.readReg m n)) →
    CanRead s m.priv (wordBase ((x.form s m).addr (s.readReg m n))) .word v →
    exec (ldr c n d x) s = .next ((x.form s m).loaded s m n d
      (v.rotateRight (8 * (((x.form s m).addr (s.readReg m n)).toNat % 4))))

/-- R57: with A = 0 and UNALIGNED_HW off, LDR of the bytes b0 to b3 of the aligned word gives, most
significant byte first, b3 b2 b1 b0 at A, b0 b3 b2 b1 at A+1, b1 b0 b3 b2 at A+2 and b2 b1 b0 b3 at
A+3. -/
def Obligations.UnalignedLdrRotates : Prop :=
  ∀ (s : State) (m : Mode) (c : Cond) (n d : RegNum) (x : Sdt) (b0 b1 b2 b3 : Byte) (a : Word),
    Ready s m c → d ≠ 15 → (x.form s m).Legal n d → s.alignFlag = false →
    s.params.unalignedHw = false → a = wordBase ((x.form s m).addr (s.readReg m n)) →
    s.denied a .word .read m.priv = false → s.byteAt a = some b0 → s.byteAt (a + 1) = some b1 →
    s.byteAt (a + 2) = some b2 → s.byteAt (a + 3) = some b3 →
    ∃ t, exec (ldr c n d x) s = .next t ∧
      t.readReg m d =
        match ((x.form s m).addr (s.readReg m n)).toNat % 4 with
        | 0 => b3 ++ b2 ++ b1 ++ b0
        | 1 => b0 ++ b3 ++ b2 ++ b1
        | 2 => b1 ++ b0 ++ b3 ++ b2
        | _ => b2 ++ b1 ++ b0 ++ b3

/-- R124: LDR with Rd = r15 jumps to the loaded value, and is refused where the value's bits 1:0 are
not zero. -/
def Obligations.LdrOfR15Jumps : Prop :=
  ∀ (s : State) (m : Mode) (c : Cond) (n : RegNum) (x : Sdt) (v r : Word), Runs s m c →
    (x.form s m).Legal n 15 → WordGoes s ((x.form s m).addr (s.readReg m n)) →
    CanRead s m.priv (wordBase ((x.form s m).addr (s.readReg m n))) .word v →
    r = v.rotateRight (8 * (((x.form s m).addr (s.readReg m n)).toNat % 4)) →
    (r.toNat % 4 = 0 → exec (ldr c n 15 x) s =
      .next (((x.form s m).writeBack s m n (s.readReg m n)).setPc r)) ∧
    (r.toNat % 4 ≠ 0 → exec (ldr c n 15 x) s = .refused .loadPcLowBits)

/-- R126: LDRB in its four forms loads the byte, extended with zeros. -/
def Obligations.LdrbLoadsTheByte : Prop :=
  ∀ (s : State) (m : Mode) (c : Cond) (n d : RegNum) (x : Sdt) (b : Byte), Ready s m c → d ≠ 15 →
    (x.form s m).Legal n d →
    s.denied ((x.form s m).addr (s.readReg m n)) .byte .read m.priv = false →
    s.byteAt ((x.form s m).addr (s.readReg m n)) = some b →
    exec (ldrb c n d x) s = .next ((x.form s m).loaded s m n d (b.setWidth 32))

/-- R128, R130, R65: LDRT and LDRBT in their two forms load as the post-indexed LDR and LDRB do, the
access judged with User privilege in every mode. -/
def Obligations.UserViewLoads : Prop :=
  ∀ (s : State) (m : Mode) (c : Cond) (n d : RegNum) (x : SdtT), Ready s m c → d ≠ 15 →
    (x.form s m).Legal n d →
    (∀ v, WordGoes s (s.readReg m n) → CanRead s .user (wordBase (s.readReg m n)) .word v →
      exec (ldrt c n d x) s = .next ((x.form s m).loaded s m n d
        (v.rotateRight (8 * ((s.readReg m n).toNat % 4))))) ∧
    (∀ b, s.denied (s.readReg m n) .byte .read .user = false →
      s.byteAt (s.readReg m n) = some b →
      exec (ldrbt c n d x) s = .next ((x.form s m).loaded s m n d (b.setWidth 32)))

/-- R153, R157, R158: LDRH loads the half-word extended with zeros, LDRSH the half-word and LDRSB the
byte extended with their sign, in their four forms each. -/
def Obligations.HalfwordAndSignedLoads : Prop :=
  ∀ (s : State) (m : Mode) (c : Cond) (n d : RegNum) (x : Hsdt) (a : Word), Ready s m c → d ≠ 15 →
    (x.form s m).Legal n d → a = (x.form s m).addr (s.readReg m n) →
    (∀ h, a.toNat % 2 = 0 → s.denied a .half .read m.priv = false → s.halfAt a = some h →
      exec (ldrh c n d x) s = .next ((x.form s m).loaded s m n d (h.setWidth 32)) ∧
      exec (ldrsh c n d x) s = .next ((x.form s m).loaded s m n d (h.signExtend 32))) ∧
    (∀ b, s.denied a .byte .read m.priv = false → s.byteAt a = some b →
      exec (ldrsb c n d x) s = .next ((x.form s m).loaded s m n d (b.signExtend 32)))

/-- R125, R58: STR in its four forms stores the word, unrotated, at the aligned address; r15 stores
the address of the instruction plus PC_STORE_OFFSET; the base receives the unmasked address. -/
def Obligations.StrStoresTheWord : Prop :=
  ∀ (s : State) (m : Mode) (c : Cond) (n d : RegNum) (x : Sdt), Ready s m c →
    (x.form s m).Legal n d → WordGoes s ((x.form s m).addr (s.readReg m n)) →
    s.denied (wordBase ((x.form s m).addr (s.readReg m n))) .word .write m.priv = false →
    exec (str c n d x) s = .next ((x.form s m).stored s m n
      (wordBase ((x.form s m).addr (s.readReg m n))) .word (storedValue s m d))

/-- R127, R154: STRB stores bits 7:0 and STRH bits 15:0 of Rd, in their four forms each. -/
def Obligations.ByteAndHalfwordStores : Prop :=
  ∀ (s : State) (m : Mode) (c : Cond) (n d : RegNum), Ready s m c → d ≠ 15 →
    (∀ x : Sdt, (x.form s m).Legal n d →
      s.denied ((x.form s m).addr (s.readReg m n)) .byte .write m.priv = false →
      exec (strb c n d x) s = .next ((x.form s m).stored s m n
        ((x.form s m).addr (s.readReg m n)) .byte (s.readReg m d))) ∧
    (∀ x : Hsdt, (x.form s m).Legal n d → ((x.form s m).addr (s.readReg m n)).toNat % 2 = 0 →
      s.denied ((x.form s m).addr (s.readReg m n)) .half .write m.priv = false →
      exec (strh c n d x) s = .next ((x.form s m).stored s m n
        ((x.form s m).addr (s.readReg m n)) .half (s.readReg m d)))

/-- R129, R131, R65: STRT and STRBT in their two forms store with User privilege in every mode. -/
def Obligations.UserViewStores : Prop :=
  ∀ (s : State) (m : Mode) (c : Cond) (n d : RegNum) (x : SdtT), Ready s m c → d ≠ 15 →
    (x.form s m).Legal n d →
    (WordGoes s (s.readReg m n) → s.denied (wordBase (s.readReg m n)) .word .write .user = false →
      exec (strt c n d x) s = .next ((x.form s m).stored s m n (wordBase (s.readReg m n)) .word
        (s.readReg m d))) ∧
    (s.denied (s.readReg m n) .byte .write .user = false →
      exec (strbt c n d x) s = .next ((x.form s m).stored s m n (s.readReg m n) .byte
        (s.readReg m d)))

/-- R59: with A = 1 an unaligned half-word or word access, an LDM or STM with an unaligned base and a
word SWP at an unaligned address raise Data Abort with cause alignment, before any register or memory
is changed. -/
def Obligations.AlignmentFaults : Prop :=
  ∀ (s : State) (m : Mode) (c : Cond) (n d : RegNum), Runs s m c → s.alignFlag = true →
    (∀ x : Sdt, (x.form s m).Legal n d → ((x.form s m).addr (s.readReg m n)).toNat % 4 ≠ 0 →
      ∀ i ∈ [ldr c n d x, str c n d x], ∃ t, exec i s = .next t ∧
        DataAborts s t .alignment ((x.form s m).addr (s.readReg m n))) ∧
    (∀ x : SdtT, (x.form s m).Legal n d → d ≠ 15 → (s.readReg m n).toNat % 4 ≠ 0 →
      ∀ i ∈ [ldrt c n d x, strt c n d x], ∃ t, exec i s = .next t ∧
        DataAborts s t .alignment (s.readReg m n)) ∧
    (∀ x : Hsdt, (x.form s m).Legal n d → d ≠ 15 →
      ((x.form s m).addr (s.readReg m n)).toNat % 2 ≠ 0 →
      ∀ i ∈ [ldrh c n d x, ldrsh c n d x, strh c n d x], ∃ t, exec i s = .next t ∧
        DataAborts s t .alignment ((x.form s m).addr (s.readReg m n))) ∧
    (∀ (k : Block) (b : BlockMode) (list : BitVec 16), k.Admits s m list → list ≠ 0 → n ≠ 15 →
      BaseOk k.isLoad k.writesBack n list → (s.readReg m n).toNat % 4 ≠ 0 →
      ∃ t, exec (k.instr b c n list) s = .next t ∧ DataAborts s t .alignment (s.readReg m n)) ∧
    (∀ r : RegNum, n ≠ 15 → d ≠ 15 → r ≠ 15 → n ≠ r → n ≠ d → (s.readReg m n).toNat % 4 ≠ 0 →
      ∃ t, exec (.swp c n d r) s = .next t ∧ DataAborts s t .alignment (s.readReg m n))

/-- R225, R134: a single load or store that `Access` denies raises Data Abort with cause permission at
the accessed address, with no register and no byte of memory changed. -/
def Obligations.DeniedSingleTransfersAbort : Prop :=
  ∀ (s : State) (m : Mode) (c : Cond) (n d : RegNum), Runs s m c →
    (∀ (x : Sdt) (a : Word), (x.form s m).Legal n d → a = (x.form s m).addr (s.readReg m n) →
      (WordGoes s a → s.denied (wordBase a) .word .read m.priv = true →
        ∃ t, exec (ldr c n d x) s = .next t ∧ DataAborts s t .permission (wordBase a)) ∧
      (WordGoes s a → s.denied (wordBase a) .word .write m.priv = true →
        ∃ t, exec (str c n d x) s = .next t ∧ DataAborts s t .permission (wordBase a)) ∧
      (d ≠ 15 → s.denied a .byte .read m.priv = true →
        ∃ t, exec (ldrb c n d x) s = .next t ∧ DataAborts s t .permission a) ∧
      (d ≠ 15 → s.denied a .byte .write m.priv = true →
        ∃ t, exec (strb c n d x) s = .next t ∧ DataAborts s t .permission a)) ∧
    (∀ (x : SdtT) (a : Word), (x.form s m).Legal n d → d ≠ 15 → a = s.readReg m n →
      (WordGoes s a → s.denied (wordBase a) .word .read .user = true →
        ∃ t, exec (ldrt c n d x) s = .next t ∧ DataAborts s t .permission (wordBase a)) ∧
      (WordGoes s a → s.denied (wordBase a) .word .write .user = true →
        ∃ t, exec (strt c n d x) s = .next t ∧ DataAborts s t .permission (wordBase a)) ∧
      (s.denied a .byte .read .user = true →
        ∃ t, exec (ldrbt c n d x) s = .next t ∧ DataAborts s t .permission a) ∧
      (s.denied a .byte .write .user = true →
        ∃ t, exec (strbt c n d x) s = .next t ∧ DataAborts s t .permission a)) ∧
    (∀ (x : Hsdt) (a : Word), (x.form s m).Legal n d → d ≠ 15 →
      a = (x.form s m).addr (s.readReg m n) →
      (a.toNat % 2 = 0 → s.denied a .half .read m.priv = true →
        ∀ i ∈ [ldrh c n d x, ldrsh c n d x],
          ∃ t, exec i s = .next t ∧ DataAborts s t .permission a) ∧
      (a.toNat % 2 = 0 → s.denied a .half .write m.priv = true →
        ∃ t, exec (strh c n d x) s = .next t ∧ DataAborts s t .permission a) ∧
      (s.denied a .byte .read m.priv = true →
        ∃ t, exec (ldrsb c n d x) s = .next t ∧ DataAborts s t .permission a))

/-- R60, R152: with A = 0, LDRH, LDRSH and STRH at an odd address are refused. -/
def Obligations.UnalignedHalfwordsAreRefused : Prop :=
  ∀ (s : State) (m : Mode) (c : Cond) (n d : RegNum) (x : Hsdt), Runs s m c → d ≠ 15 →
    (x.form s m).Legal n d → s.alignFlag = false → s.params.unalignedHw = false →
    ((x.form s m).addr (s.readReg m n)).toNat % 2 ≠ 0 →
    ∀ i ∈ [ldrh c n d x, ldrsh c n d x, strh c n d x], exec i s = .refused .unalignedHalfword

/-- R62: with UNALIGNED_HW on and A = 0 every unaligned half-word and word access is refused. -/
def Obligations.UnalignedHwAccessesAreRefused : Prop :=
  ∀ (s : State) (m : Mode) (c : Cond) (n d : RegNum), Runs s m c → s.alignFlag = false →
    s.params.unalignedHw = true →
    (∀ x : Sdt, (x.form s m).Legal n d → ((x.form s m).addr (s.readReg m n)).toNat % 4 ≠ 0 →
      ∀ i ∈ [ldr c n d x, str c n d x], exec i s = .refused .unalignedHwNotSpecified) ∧
    (∀ x : SdtT, (x.form s m).Legal n d → d ≠ 15 → (s.readReg m n).toNat % 4 ≠ 0 →
      ∀ i ∈ [ldrt c n d x, strt c n d x], exec i s = .refused .unalignedHwNotSpecified) ∧
    (∀ x : Hsdt, (x.form s m).Legal n d → d ≠ 15 →
      ((x.form s m).addr (s.readReg m n)).toNat % 2 ≠ 0 →
      ∀ i ∈ [ldrh c n d x, ldrsh c n d x, strh c n d x],
        exec i s = .refused .unalignedHwNotSpecified)

/-- R98: the register combinations of a single transfer that are refused; Rd = r15 is refused but for
LDR and STR. -/
def Obligations.SingleTransferOperandsRefused : Prop :=
  ∀ (s : State) (m : Mode) (c : Cond) (n d : RegNum), Runs s m c →
    (∀ x : Sdt, ¬ (x.form s m).Legal n d →
      ∀ i ∈ [ldr c n d x, str c n d x], exec i s = .refused .unpredictableOperands) ∧
    (∀ x : Sdt, ¬ (x.form s m).Legal n d ∨ d = 15 →
      ∀ i ∈ [ldrb c n d x, strb c n d x], exec i s = .refused .unpredictableOperands) ∧
    (∀ x : SdtT, ¬ (x.form s m).Legal n d ∨ d = 15 →
      ∀ i ∈ [ldrt c n d x, strt c n d x, ldrbt c n d x, strbt c n d x],
        exec i s = .refused .unpredictableOperands) ∧
    (∀ x : Hsdt, ¬ (x.form s m).Legal n d ∨ d = 15 →
      ∀ i ∈ [ldrh c n d x, strh c n d x, ldrsb c n d x, ldrsh c n d x],
        exec i s = .refused .unpredictableOperands)

/-- The frame of the single loads: unless the instruction is aborted, only Rd and a written-back base
change, and no byte of memory. -/
def Obligations.SingleLoadFrame : Prop :=
  ∀ (s t : State) (m : Mode) (c : Cond) (n d : RegNum), s.mode? = some m →
    (∀ (x : Sdt), ∀ i ∈ [ldr c n d x, ldrb c n d x], exec i s = .next t →
      Aborted s t ∨ Keeps s t ((x.form s m).writes m n (some d)) noByte) ∧
    (∀ (x : SdtT), ∀ i ∈ [ldrt c n d x, ldrbt c n d x], exec i s = .next t →
      Aborted s t ∨ Keeps s t ((x.form s m).writes m n (some d)) noByte) ∧
    (∀ (x : Hsdt), ∀ i ∈ [ldrh c n d x, ldrsb c n d x, ldrsh c n d x], exec i s = .next t →
      Aborted s t ∨ Keeps s t ((x.form s m).writes m n (some d)) noByte)

/-- The frame of the single stores: unless the instruction is aborted, only a written-back base
changes, and the bytes of the access: four from the aligned address for a word, one or two from the
address for a byte or half-word. -/
def Obligations.SingleStoreFrame : Prop :=
  ∀ (s t : State) (m : Mode) (c : Cond) (n d : RegNum), s.mode? = some m →
    (∀ x : Sdt, exec (str c n d x) s = .next t → Aborted s t ∨
      Keeps s t ((x.form s m).writes m n none)
        (span (wordBase ((x.form s m).addr (s.readReg m n))) 4)) ∧
    (∀ x : Sdt, exec (strb c n d x) s = .next t → Aborted s t ∨
      Keeps s t ((x.form s m).writes m n none) (span ((x.form s m).addr (s.readReg m n)) 1)) ∧
    (∀ x : SdtT, exec (strt c n d x) s = .next t → Aborted s t ∨
      Keeps s t ((x.form s m).writes m n none) (span (wordBase (s.readReg m n)) 4)) ∧
    (∀ x : SdtT, exec (strbt c n d x) s = .next t → Aborted s t ∨
      Keeps s t ((x.form s m).writes m n none) (span (s.readReg m n) 1)) ∧
    (∀ x : Hsdt, exec (strh c n d x) s = .next t → Aborted s t ∨
      Keeps s t ((x.form s m).writes m n none) (span ((x.form s m).addr (s.readReg m n)) 2))

/-! ## Multiple transfers (42_multiple.md) -/

/-- R171 to R175, R181: LDM in its four modes, without r15 in the list, loads each register of the
list from its word, writes the base back with `!`, goes on, and changes nothing else. -/
def Obligations.LdmLoadsTheList : Prop :=
  ∀ (s : State) (m : Mode) (c : Cond) (b : BlockMode) (w : Bool) (n : RegNum) (list : BitVec 16)
    (v : RegNum → Word), Ready s m c → BlockReady s m b n list → BaseOk true w n list →
    listed list 15 = false →
    (∀ i, listed list i = true →
      CanRead s m.priv (wordOf b (s.readReg m n) list i) .word (v i)) →
    ∃ t, exec (ldm b c w n list) s = .next t ∧ t.pc = s.pc + 4 ∧
      (∀ i, listed list i = true → t.readReg m i = v i) ∧
      (w = true → t.readReg m n = newBase b (s.readReg m n) list) ∧
      Keeps s t (loads m m w n list) noByte

/-- R171, R186: LDM with r15 in the list jumps to the value loaded for it, and is refused where that
value's bits 1:0 are not zero. -/
def Obligations.LdmOfR15Jumps : Prop :=
  ∀ (s : State) (m : Mode) (c : Cond) (b : BlockMode) (w : Bool) (n : RegNum) (list : BitVec 16)
    (v : RegNum → Word), Runs s m c → BlockReady s m b n list → BaseOk true w n list →
    listed list 15 = true →
    (∀ i, listed list i = true →
      CanRead s m.priv (wordOf b (s.readReg m n) list i) .word (v i)) →
    ((v 15).toNat % 4 = 0 → ∃ t, exec (ldm b c w n list) s = .next t ∧ t.pc = v 15 ∧
      (∀ i, i ≠ 15 → listed list i = true → t.readReg m i = v i) ∧
      (w = true → t.readReg m n = newBase b (s.readReg m n) list) ∧
      Keeps s t (loads m m w n list) noByte) ∧
    ((v 15).toNat % 4 ≠ 0 → exec (ldm b c w n list) s = .refused .loadPcLowBits)

/-- R171, R176 to R179, R181, R182: STM in its four modes stores each register of the list, r15 as the
address of the instruction plus PC_STORE_OFFSET and a listed base as its old value, to its word,
writes the base back with `!`, goes on, and changes nothing else. -/
def Obligations.StmStoresTheList : Prop :=
  ∀ (s : State) (m : Mode) (c : Cond) (b : BlockMode) (w : Bool) (n : RegNum) (list : BitVec 16),
    Ready s m c → BlockReady s m b n list → BaseOk false w n list →
    (∀ i, listed list i = true →
      s.denied (wordOf b (s.readReg m n) list i) .word .write m.priv = false) →
    ∃ t, exec (stm b c w n list) s = .next t ∧ t.pc = s.pc + 4 ∧
      (∀ i, listed list i = true →
        t.wordAt (wordOf b (s.readReg m n) list i) = some (storedValue s m i)) ∧
      (w = true → t.readReg m n = newBase b (s.readReg m n) list) ∧
      Keeps s t (baseOnly m w n) (wordsOf b (s.readReg m n) list)

/-- R183: LDM with `^` and r15 in an exception mode also replaces the CPSR by the SPSR of the mode;
the registers loaded and the base are those of the mode it ran in. -/
def Obligations.LdmReturnRestoresTheCpsr : Prop :=
  ∀ (s : State) (m : Mode) (c : Cond) (b : BlockMode) (w : Bool) (n : RegNum) (list : BitVec 16)
    (v : RegNum → Word) (p : Word), Runs s m c → BlockReady s m b n list → BaseOk true w n list →
    listed list 15 = true →
    (∀ i, listed list i = true →
      CanRead s m.priv (wordOf b (s.readReg m n) list i) .word (v i)) →
    s.spsr? m = some p → psrT p = false → psrMode? p ≠ none → (v 15).toNat % 4 = 0 →
    ∃ t, exec (ldmRet b c w n list) s = .next t ∧ t.cpsr = p ∧ t.pc = v 15 ∧
      (∀ i, i ≠ 15 → listed list i = true → t.readReg m i = v i) ∧
      (w = true → t.readReg m n = newBase b (s.readReg m n) list) ∧
      Keeps s { t with cpsr := s.cpsr } (loads m m w n list) noByte

/-- R183 to R185: the three `^` forms are refused in User and System mode; the return also with an SPSR
whose T is 1, whose M is no mode, or with a loaded pc whose bits 1:0 are not zero, in this order. -/
def Obligations.CaretFormRefusals : Prop :=
  ∀ (s : State) (m : Mode) (c : Cond) (b : BlockMode) (w : Bool) (n : RegNum) (list : BitVec 16),
    Runs s m c →
    (m = .usr ∨ m = .sys → exec (ldmRet b c w n list) s = .refused .noSpsr) ∧
    (m = .usr ∨ m = .sys → listed list 15 = false → ∀ i ∈ [ldmUsr b c n list, stmUsr b c n list],
      exec i s = .refused .userBankFormInUserOrSystem) ∧
    (∀ (v : RegNum → Word) (p : Word), BlockReady s m b n list → BaseOk true w n list →
      listed list 15 = true →
      (∀ i, listed list i = true →
        CanRead s m.priv (wordOf b (s.readReg m n) list i) .word (v i)) →
      s.spsr? m = some p →
      (psrT p = true → exec (ldmRet b c w n list) s = .refused .thumbNotInScope) ∧
      (psrT p = false → psrMode? p = none →
        exec (ldmRet b c w n list) s = .refused .illegalMode) ∧
      (psrT p = false → psrMode? p ≠ none → (v 15).toNat % 4 ≠ 0 →
        exec (ldmRet b c w n list) s = .refused .loadPcLowBits))

/-- R184, R266: LDM with `^` without r15, in an exception mode, loads the User registers from the
words at the current mode's base, which is not changed, and the hazard begins. -/
def Obligations.LdmLoadsTheUserRegisters : Prop :=
  ∀ (s : State) (m : Mode) (c : Cond) (b : BlockMode) (n : RegNum) (list : BitVec 16)
    (v : RegNum → Word), Ready s m c → s.spsr? m ≠ none → BlockReady s m b n list →
    listed list 15 = false →
    (∀ i, listed list i = true →
      CanRead s m.priv (wordOf b (s.readReg m n) list i) .word (v i)) →
    ∃ t, exec (ldmUsr b c n list) s = .next t ∧ t.pc = s.pc + 4 ∧
      (∀ i, listed list i = true → t.readReg .usr i = v i) ∧ t.bankHazard = true ∧
      Keeps s t (loads .usr m false n list) noByte

/-- R185: STM with `^`, in an exception mode, stores the User registers to the words at the current
mode's base, which is not changed. -/
def Obligations.StmStoresTheUserRegisters : Prop :=
  ∀ (s : State) (m : Mode) (c : Cond) (b : BlockMode) (n : RegNum) (list : BitVec 16), Ready s m c →
    s.spsr? m ≠ none → BlockReady s m b n list → listed list 15 = false →
    (∀ i, listed list i = true →
      s.denied (wordOf b (s.readReg m n) list i) .word .write m.priv = false) →
    ∃ t, exec (stmUsr b c n list) s = .next t ∧ t.pc = s.pc + 4 ∧
      (∀ i, listed list i = true →
        t.wordAt (wordOf b (s.readReg m n) list i) = some (s.readReg .usr i)) ∧
      Keeps s t noReg (wordsOf b (s.readReg m n) list)

/-- R171, R182, R186: what every form of LDM and STM refuses before its first access: an empty list,
a base r15, a base in the list with write-back, an unaligned base with A = 0, a range that wraps. -/
def Obligations.BlockRefusals : Prop :=
  ∀ (s : State) (m : Mode) (c : Cond) (k : Block) (b : BlockMode) (n : RegNum) (list : BitVec 16),
    Runs s m c → k.Admits s m list →
    (list = 0 → exec (k.instr b c n list) s = .refused .emptyRegisterList) ∧
    (list ≠ 0 → n = 15 ∨ ¬ BaseOk k.isLoad k.writesBack n list →
      exec (k.instr b c n list) s = .refused .unpredictableOperands) ∧
    (list ≠ 0 → n ≠ 15 → BaseOk k.isLoad k.writesBack n list →
      ((s.readReg m n).toNat % 4 ≠ 0 → s.alignFlag = false →
        exec (k.instr b c n list) s = .refused .unalignedMultiple) ∧
      ((s.readReg m n).toNat % 4 = 0 → ¬ Fits b (s.readReg m n) list →
        exec (k.instr b c n list) s = .refused .addressWrap))

/-- R171, R225: an LDM whose access to the word of register `j` is denied, the accesses before it being
good, raises Data Abort there; the base and everything but the other registers of the list is as
before. -/
def Obligations.DeniedLdmAborts : Prop :=
  ∀ (s : State) (m : Mode) (c : Cond) (k : Block) (b : BlockMode) (n : RegNum) (list : BitVec 16)
    (j : RegNum), Runs s m c → k.Admits s m list → k.isLoad = true → BlockReady s m b n list →
    BaseOk true k.writesBack n list → listed list j = true →
    s.denied (wordOf b (s.readReg m n) list j) .word .read m.priv = true →
    (∀ i : RegNum, listed list i = true → i.toNat < j.toNat →
      ∃ v, CanRead s m.priv (wordOf b (s.readReg m n) list i) .word v) →
    ∃ u t, exec (k.instr b c n list) s = .next t ∧
      Keeps s u (fun q => loads (k.bank m) m false n list q ∧ physReg m n ≠ some q) noByte ∧
      Enters u t .abt 0x10 (s.pc + 8) false
        (some ⟨.permission, wordOf b (s.readReg m n) list j⟩)

/-- R171, R225: an STM whose access to the word of register `j` is denied, the accesses before it being
good, raises Data Abort there; no register changes before the entry, each word of the range holds its
old or its new value, and no other byte changes. -/
def Obligations.DeniedStmAborts : Prop :=
  ∀ (s : State) (m : Mode) (c : Cond) (k : Block) (b : BlockMode) (n : RegNum) (list : BitVec 16)
    (j : RegNum), Runs s m c → k.Admits s m list → k.isLoad = false → BlockReady s m b n list →
    BaseOk false k.writesBack n list → listed list j = true →
    s.denied (wordOf b (s.readReg m n) list j) .word .write m.priv = true →
    (∀ i : RegNum, listed list i = true → i.toNat < j.toNat →
      s.denied (wordOf b (s.readReg m n) list i) .word .write m.priv = false) →
    ∃ u t, exec (k.instr b c n list) s = .next t ∧
      Keeps s u noReg (wordsOf b (s.readReg m n) list) ∧
      (∀ i, listed list i = true →
        u.wordAt (wordOf b (s.readReg m n) list i) = s.wordAt (wordOf b (s.readReg m n) list i) ∨
        u.wordAt (wordOf b (s.readReg m n) list i) = some (storedValue s (k.bank m) i)) ∧
      Enters u t .abt 0x10 (s.pc + 8) false
        (some ⟨.permission, wordOf b (s.readReg m n) list j⟩)

/-- The frame of the multiple transfers, for every next state: an LDM changes its registers and base
(and, with `^` and r15, the CPSR), an STM its base and the bytes of its words; after a Data Abort the
same holds of the state the exception is taken from, the base being as before. -/
def Obligations.BlockFrame : Prop :=
  ∀ (s t : State) (m : Mode) (c : Cond) (k : Block) (b : BlockMode) (n : RegNum) (list : BitVec 16),
    s.mode? = some m → exec (k.instr b c n list) s = .next t →
    let w := k.writesBack
    let bytes := if k.isLoad then noByte else wordsOf b (s.readReg m n) list
    (Keeps s { t with cpsr := s.cpsr }
        (if k.isLoad then loads (k.bank m) m w n list else baseOnly m w n) bytes ∧
      (t.cpsr = s.cpsr ∨ ((∃ w, k = .ldmRet w) ∧ s.spsr? m = some t.cpsr))) ∨
    ∃ u info, Keeps s u
        (fun q => k.isLoad = true ∧ loads (k.bank m) m false n list q ∧ physReg m n ≠ some q) bytes ∧
      Enters u t .abt 0x10 (s.pc + 8) false (some info)

/-- R180: a push with STMxy sp! is undone by LDMxy sp! with the same two letters (FD, ED, FA, EA): on a
platform that denies no access, every register but the pc, and the CPSR, is as before the push. The
last premise keeps the stack pointer after an Empty push inside the address space. -/
def Obligations.PopUndoesPush : Prop :=
  ∀ (s t : State) (m : Mode) (c : Cond) (b up : BlockMode) (list : BitVec 16),
    (b, up) ∈ [(BlockMode.db, BlockMode.ia), (.da, .ib), (.ib, .da), (.ia, .db)] →
    Runs s m c → s.denials = [] → (s.readReg m 13).toNat % 4 = 0 → listed list 13 = false →
    listed list 15 = false → exec (stm b c true 13 list) s = .next t → t.pc ≠ 0xFFFFFFFC →
    (b = .ia → (s.readReg m 13).toNat + 4 * count list < 4294967296) →
    (b = .da → 4 * count list ≤ (s.readReg m 13).toNat) →
    ∃ u, exec (ldm up c true 13 list) t = .next u ∧ u.cpsr = s.cpsr ∧
      ∀ q, u.getPhys q = s.getPhys q

/-! ## SWI, SWP, CLZ and CP15 (43 to 46, 60_exceptions.md) -/

/-- R200: SWI, in every mode and with every immediate, enters Supervisor mode at vector 0x08 with
r14_svc the address + 4 and SPSR_svc the old CPSR. -/
def Obligations.SwiEntersSupervisor : Prop :=
  ∀ (s : State) (m : Mode) (c : Cond) (imm : BitVec 24), Runs s m c →
    ∃ t, exec (.swi c imm) s = .next t ∧ Enters s t .svc 0x08 (s.pc + 4) false s.abortInfo

/-- R205, R206: SWP stores Rm at the address in Rn and loads the old word into Rd; SWPB does so with
the low byte, extended with zeros. Rd = Rm is allowed. -/
def Obligations.SwapExchanges : Prop :=
  ∀ (s : State) (m : Mode) (c : Cond) (n d r : RegNum), Ready s m c → n ≠ 15 → d ≠ 15 → r ≠ 15 →
    n ≠ r → n ≠ d →
    (∀ v, (s.readReg m n).toNat % 4 = 0 → CanRead s m.priv (s.readReg m n) .word v →
      s.denied (s.readReg m n) .word .write m.priv = false →
      exec (.swp c n d r) s = .next
        (((s.store (s.readReg m n) .word (s.readReg m r)).writeReg m d v).setPc (s.pc + 4))) ∧
    (∀ v : Byte, s.denied (s.readReg m n) .byte .read m.priv = false →
      s.byteAt (s.readReg m n) = some v → s.denied (s.readReg m n) .byte .write m.priv = false →
      exec (.swpb c n d r) s = .next
        (((s.store (s.readReg m n) .byte (s.readReg m r)).writeReg m d (v.setWidth 32)).setPc
          (s.pc + 4)))

/-- R205, R206, R98, R61: the operands SWP and SWPB refuse, the unaligned word swap with A = 0, and the
Data Aborts on the read and on the write, with Rd not written. -/
def Obligations.SwapRefusalsAndAborts : Prop :=
  ∀ (s : State) (m : Mode) (c : Cond) (n d r : RegNum), Runs s m c →
    (n = 15 ∨ d = 15 ∨ r = 15 ∨ n = r ∨ n = d →
      exec (.swp c n d r) s = .refused .unpredictableOperands ∧
      exec (.swpb c n d r) s = .refused .unpredictableOperands) ∧
    (n ≠ 15 → d ≠ 15 → r ≠ 15 → n ≠ r → n ≠ d →
      ((s.readReg m n).toNat % 4 ≠ 0 → s.alignFlag = false →
        exec (.swp c n d r) s = .refused .unalignedSwap) ∧
      ((s.readReg m n).toNat % 4 = 0 → s.denied (s.readReg m n) .word .read m.priv = true →
        ∃ t, exec (.swp c n d r) s = .next t ∧ DataAborts s t .permission (s.readReg m n)) ∧
      (∀ v, (s.readReg m n).toNat % 4 = 0 → CanRead s m.priv (s.readReg m n) .word v →
        s.denied (s.readReg m n) .word .write m.priv = true →
        ∃ t, exec (.swp c n d r) s = .next t ∧ DataAborts s t .permission (s.readReg m n)) ∧
      (s.denied (s.readReg m n) .byte .read m.priv = true →
        ∃ t, exec (.swpb c n d r) s = .next t ∧ DataAborts s t .permission (s.readReg m n)) ∧
      (∀ v, CanRead s m.priv (s.readReg m n) .byte v →
        s.denied (s.readReg m n) .byte .write m.priv = true →
        ∃ t, exec (.swpb c n d r) s = .next t ∧ DataAborts s t .permission (s.readReg m n)))

/-- R210: CLZ writes the number of zero bits above the highest 1 bit, 32 for zero; r15 as an operand is
refused, and with HAS_CLZ = no the instruction is not admitted. -/
def Obligations.ClzCountsLeadingZeros : Prop :=
  ∀ (s : State) (m : Mode) (c : Cond) (d r : RegNum),
    (s.params.hasClz = false → exec (.clz c d r) s = .refused .notAdmitted) ∧
    (s.params.hasClz = true → Runs s m c → d = 15 ∨ r = 15 →
      exec (.clz c d r) s = .refused .unpredictableOperands) ∧
    (s.params.hasClz = true → Ready s m c → d ≠ 15 → r ≠ 15 →
      ∃ k, exec (.clz c d r) s = .next ((s.writeReg m d (BitVec.ofNat 32 k)).setPc (s.pc + 4)) ∧
        (s.readReg m r = 0 → k = 32) ∧
        (s.readReg m r ≠ 0 → k < 32 ∧ (s.readReg m r).getLsbD (31 - k) = true ∧
          ∀ j, 31 - k < j → (s.readReg m r).getLsbD j = false))

/-- R215, R216: in a privileged mode MRC reads CP15 register 1 and MCR, where it changes no bit but
bit 1, writes the A flag; a write that would change another bit is refused. -/
def Obligations.Cp15RegisterOne : Prop :=
  ∀ (s : State) (m : Mode) (c : Cond) (d : RegNum), Ready s m c → m ≠ .usr → d ≠ 15 →
    exec (.mrc c 1 d 0 0) s = .next ((s.writeReg m d s.cp15c1).setPc (s.pc + 4)) ∧
    ((∀ k, k ≠ 1 → (s.readReg m d).getLsbD k = s.cp15c1.getLsbD k) →
      ∃ t, exec (.mcr c 1 d 0 0) s = .next t ∧ t.alignFlag = (s.readReg m d).getLsbD 1 ∧
        t = { s with pc := s.pc + 4, cp15c1 := s.readReg m d }) ∧
    ((∃ k, k ≠ 1 ∧ (s.readReg m d).getLsbD k ≠ s.cp15c1.getLsbD k) →
      exec (.mcr c 1 d 0 0) s = .refused .cp15ControlBitsNotModelled)

/-- R215 to R217: in User mode MRC and MCR of any register raise Undefined Instruction; in the other
modes any register but c1, c0, 0 is refused, and so is Rd = r15. That the register is tested before
Rd = r15 is the model's order, log 19. -/
def Obligations.Cp15UndefinedAndRefused : Prop :=
  ∀ (s : State) (m : Mode) (c : Cond) (crn : BitVec 4) (d : RegNum) (op2 : BitVec 3)
    (crm : BitVec 4), Runs s m c →
    ∀ i ∈ [Instr.mrc c crn d op2 crm, Instr.mcr c crn d op2 crm],
      (m = .usr → ∃ t, exec i s = .next t ∧ Enters s t .und 0x04 (s.pc + 4) false s.abortInfo) ∧
      (m ≠ .usr → ¬ (crn = 1 ∧ op2 = 0 ∧ crm = 0) →
        exec i s = .refused .cp15RegisterNotModelled) ∧
      (m ≠ .usr → crn = 1 ∧ op2 = 0 ∧ crm = 0 → d = 15 →
        exec i s = .refused .unpredictableOperands)

/-- The frames of SWP, SWPB, CLZ, MRC and MCR: unless an exception is entered, only Rd changes, the
swapped bytes, and for MCR the A flag. -/
def Obligations.SwapClzCp15Frame : Prop :=
  ∀ (s t : State) (m : Mode) (c : Cond) (n d r : RegNum), s.mode? = some m →
    (exec (.swp c n d r) s = .next t → Aborted s t ∨
      Keeps s t (fun q => physReg m d = some q) (span (s.readReg m n) 4)) ∧
    (exec (.swpb c n d r) s = .next t → Aborted s t ∨
      Keeps s t (fun q => physReg m d = some q) (span (s.readReg m n) 1)) ∧
    (exec (.clz c d r) s = .next t → Keeps s t (fun q => physReg m d = some q) noByte) ∧
    (∀ crn op2 crm, exec (.mrc c crn d op2 crm) s = .next t →
      Enters s t .und 0x04 (s.pc + 4) false s.abortInfo ∨
        Keeps s t (fun q => physReg m d = some q) noByte) ∧
    (∀ crn op2 crm, exec (.mcr c crn d op2 crm) s = .next t →
      Enters s t .und 0x04 (s.pc + 4) false s.abortInfo ∨
        (Keeps s { t with cp15c1 := s.cp15c1 } noReg noByte ∧
          ∀ k, k ≠ 1 → t.cp15c1.getLsbD k = s.cp15c1.getLsbD k))

end Slice0
end

