-- ==== Sys2Proof/Machine/Assembler.lean ====
section
/-! DEFINITION. The assembler layer of the spec: what each form of 30_encoding.md R100 to R108 stands
for. Its conventions are the spec's own, from general knowledge: log 20. -/

namespace Sys2Proof.Machine

/-- `<shift>` (R86): the amount is a number. -/
inductive AsmShift where
  | lsl (k : Nat)
  | lsr (k : Nat)
  | asr (k : Nat)
  | ror (k : Nat)
  | rrx
  deriving DecidableEq, Repr

/-- `<offset>`: a signed immediate, or a signed register with an optional shift (R100, R101). -/
inductive AsmOffset where
  | imm (up : Bool) (mag : Nat)
  | reg (up : Bool) (m : RegNum) (shift : Option AsmShift)
  deriving DecidableEq, Repr

/-- The address of a single transfer: `[Rn]` (R106), `[Rn, <offset>]{!}`, `[Rn], <offset>` or LABEL
(R104). -/
inductive AsmAddr where
  | plain (n : RegNum)
  | pre (n : RegNum) (o : AsmOffset) (wb : Bool)
  | post (n : RegNum) (o : AsmOffset)
  | label (target : Word)
  deriving DecidableEq, Repr

/-- The data type suffix: none, B, H, SH, SB (R100, R101). -/
inductive AsmType where
  | word | b | h | sh | sb
  deriving DecidableEq, Repr

/-- `<add mode>` (R102): a block name or a stack name. -/
inductive AddMode where
  | block (b : BlockMode)
  | fd | ed | fa | ea
  deriving DecidableEq, Repr

/-- One line of assembler source (R100 to R104); no condition means AL (R81). MRC and MCR take an
optional condition suffix too, which R103 (46_cp15_access.md R215, R216) does not print and which the
condition field of their words (R81, R94) and the line `MRCNE` of 95_test_vectors.md suggest: DEDUCED,
log 20. -/
inductive Asm where
  | transfer (load : Bool) (c : Option Cond) (ty : AsmType) (user : Bool) (d : RegNum) (a : AsmAddr)
  | block (load : Bool) (c : Option Cond) (mode : AddMode) (n : RegNum) (wb : Bool)
      (list : List RegNum) (caret : Bool)
  | swi (c : Option Cond) (imm : Nat)
  | swp (c : Option Cond) (b : Bool) (d m n : RegNum)
  | clz (c : Option Cond) (d m : RegNum)
  | mrc (c : Option Cond) (d : RegNum) (crn crm : BitVec 4) (op2 : BitVec 3)
  | mcr (c : Option Cond) (d : RegNum) (crn crm : BitVec 4) (op2 : BitVec 3)
  deriving DecidableEq, Repr

/-- Why a line stands for no instruction. -/
inductive AsmError where
  /-- STRSB, STRSH: `refuse(NoSuchStore)` (R108; 41_halfword_signed.md R155, R156). -/
  | noSuchStore
  /-- T with a pre-indexed mode, specified or implied (R100; 70_reset_and_hazards.md R263). -/
  | userWithPreIndexed
  /-- T on a half-word or signed transfer (R101). -/
  | noUserForm
  /-- LABEL with a type suffix (R104). -/
  | noLabelForm
  /-- A LABEL further than 4095 bytes from the address + 8, modulo 2^32 (R104). -/
  | labelRange
  /-- An immediate that does not fit its field (R84, R88, R91). -/
  | immediateRange
  /-- A shift amount outside the ranges of R85. -/
  | shiftRange
  /-- A shifted offset on a half-word or signed transfer (R101). -/
  | noShiftedOperand
  /-- `^` without the pc and with `!` (R102, 42_multiple.md R184). -/
  | caretWriteBack
  /-- STM with `^` and the pc (R102, 42_multiple.md R185). -/
  | caretStorePc
  deriving DecidableEq, Repr

/-- The block mode of an `<add mode>`; the stack names differ for loads and stores (R105,
42_multiple.md R180). -/
def AddMode.blockMode (load : Bool) : AddMode → BlockMode
  | .block b => b
  | .fd => if load then .ia else .db
  | .ed => if load then .ib else .da
  | .fa => if load then .da else .ib
  | .ea => if load then .db else .ia

/-- The shift field and amount of a `<shift>` (R85): amount 32 of LSR and ASR is encoded as 0. -/
def AsmShift.fields : AsmShift → Except AsmError (ShiftKind × BitVec 5)
  | .lsl k => if k ≤ 31 then .ok (.lsl, BitVec.ofNat 5 k) else .error .shiftRange
  | .lsr k => if 1 ≤ k ∧ k ≤ 32 then .ok (.lsr, BitVec.ofNat 5 (k % 32)) else .error .shiftRange
  | .asr k => if 1 ≤ k ∧ k ≤ 32 then .ok (.asr, BitVec.ofNat 5 (k % 32)) else .error .shiftRange
  | .ror k => if 1 ≤ k ∧ k ≤ 31 then .ok (.ror, BitVec.ofNat 5 k) else .error .shiftRange
  | .rrx => .ok (.ror, 0)

/-- The fields of a register offset; no shift is LSL #0 (R85). -/
def shiftFields : Option AsmShift → Except AsmError (ShiftKind × BitVec 5)
  | none => .ok (.lsl, 0)
  | some sh => sh.fields

/-- A word or unsigned byte transfer, pre-indexed (R83). -/
def asmWordPre (load byte : Bool) (c : Cond) (d n : RegNum) (wb : Bool) :
    AsmOffset → Except AsmError Instr
  | .imm u k =>
    if 4095 < k then .error .immediateRange
    else
      let i := BitVec.ofNat 12 k
      .ok (match load, byte with
        | true, false => .ldrImmPre c u wb n d i
        | true, true => .ldrbImmPre c u wb n d i
        | false, false => .strImmPre c u wb n d i
        | false, true => .strbImmPre c u wb n d i)
  | .reg u m sh =>
    match shiftFields sh with
    | .error e => .error e
    | .ok (k, amt) =>
      .ok (match load, byte with
        | true, false => .ldrRegPre c u wb n d amt k m
        | true, true => .ldrbRegPre c u wb n d amt k m
        | false, false => .strRegPre c u wb n d amt k m
        | false, true => .strbRegPre c u wb n d amt k m)

/-- A word or unsigned byte transfer, post-indexed, with or without T (R83). -/
def asmWordPost (load byte user : Bool) (c : Cond) (d n : RegNum) :
    AsmOffset → Except AsmError Instr
  | .imm u k =>
    if 4095 < k then .error .immediateRange
    else
      let i := BitVec.ofNat 12 k
      .ok (match load, byte, user with
        | true, false, false => .ldrImmPost c u n d i
        | true, true, false => .ldrbImmPost c u n d i
        | false, false, false => .strImmPost c u n d i
        | false, true, false => .strbImmPost c u n d i
        | true, false, true => .ldrtImm c u n d i
        | true, true, true => .ldrbtImm c u n d i
        | false, false, true => .strtImm c u n d i
        | false, true, true => .strbtImm c u n d i)
  | .reg u m sh =>
    match shiftFields sh with
    | .error e => .error e
    | .ok (k, amt) =>
      .ok (match load, byte, user with
        | true, false, false => .ldrRegPost c u n d amt k m
        | true, true, false => .ldrbRegPost c u n d amt k m
        | false, false, false => .strRegPost c u n d amt k m
        | false, true, false => .strbRegPost c u n d amt k m
        | true, false, true => .ldrtReg c u n d amt k m
        | true, true, true => .ldrbtReg c u n d amt k m
        | false, false, true => .strtReg c u n d amt k m
        | false, true, true => .strbtReg c u n d amt k m)

/-- A half-word or signed transfer: the stores of signed data do not exist (R87, R101, R108). -/
def asmHalf (load : Bool) (ty : AsmType) (c : Cond) (d n : RegNum) (wb : Option Bool) :
    AsmOffset → Except AsmError Instr
  | .imm u k =>
    if 255 < k then .error .immediateRange
    else
      let i := BitVec.ofNat 8 k
      match load, ty, wb with
      | true, .sh, some w => .ok (.ldrshImmPre c u w n d i)
      | true, .sb, some w => .ok (.ldrsbImmPre c u w n d i)
      | true, _, some w => .ok (.ldrhImmPre c u w n d i)
      | true, .sh, none => .ok (.ldrshImmPost c u n d i)
      | true, .sb, none => .ok (.ldrsbImmPost c u n d i)
      | true, _, none => .ok (.ldrhImmPost c u n d i)
      | false, .sh, _ => .error .noSuchStore
      | false, .sb, _ => .error .noSuchStore
      | false, _, some w => .ok (.strhImmPre c u w n d i)
      | false, _, none => .ok (.strhImmPost c u n d i)
  | .reg _ _ (some _) => .error .noShiftedOperand
  | .reg u m none =>
    match load, ty, wb with
    | true, .sh, some w => .ok (.ldrshRegPre c u w n d m)
    | true, .sb, some w => .ok (.ldrsbRegPre c u w n d m)
    | true, _, some w => .ok (.ldrhRegPre c u w n d m)
    | true, .sh, none => .ok (.ldrshRegPost c u n d m)
    | true, .sb, none => .ok (.ldrsbRegPost c u n d m)
    | true, _, none => .ok (.ldrhRegPost c u n d m)
    | false, .sh, _ => .error .noSuchStore
    | false, .sb, _ => .error .noSuchStore
    | false, _, some w => .ok (.strhRegPre c u w n d m)
    | false, _, none => .ok (.strhRegPost c u n d m)

/-- `LDR|STR Rd, LABEL` at an address: the pre-indexed immediate form on r15, which reads as the
address + 8 (R104; 40_single_word_byte.md R132, R133). The distance `d` of R104 is taken modulo 2^32
(00_scope.md R7, 30_encoding.md R110) and read as signed, so that a LABEL is reached across the end of
the address space: DEDUCED, log 20. -/
def asmLabel (load : Bool) (c : Cond) (d : RegNum) (at_ target : Word) : Except AsmError Instr :=
  let off : Int := (target - (at_ + 8)).toInt
  if 0 ≤ off ∧ off ≤ 4095 then asmWordPre load false c d 15 false (.imm true off.toNat)
  else if -4095 ≤ off ∧ off < 0 then asmWordPre load false c d 15 false (.imm false (-off).toNat)
  else .error .labelRange

/-- The list field of a register list, in whatever order it is written (R90). -/
def listField : List RegNum → BitVec 16
  | [] => 0
  | i :: rest => (1#16 <<< i.toNat) ||| listField rest

/-- LDM, STM, normal form (R89). -/
def asmBlock (load : Bool) (c : Cond) (b : BlockMode) (w : Bool) (n : RegNum) (l : BitVec 16) :
    Instr :=
  match load, b with
  | true, .ia => .ldmia c w n l
  | true, .ib => .ldmib c w n l
  | true, .da => .ldmda c w n l
  | true, .db => .ldmdb c w n l
  | false, .ia => .stmia c w n l
  | false, .ib => .stmib c w n l
  | false, .da => .stmda c w n l
  | false, .db => .stmdb c w n l

/-- LDM, STM with `^` (R89, R183 to R185). -/
def asmCaret (load : Bool) (c : Cond) (b : BlockMode) (w : Bool) (n : RegNum) (l : BitVec 16) :
    Except AsmError Instr :=
  match load, l.getLsbD 15, w, b with
  | true, true, _, .ia => .ok (.ldmiaRet c w n l)
  | true, true, _, .ib => .ok (.ldmibRet c w n l)
  | true, true, _, .da => .ok (.ldmdaRet c w n l)
  | true, true, _, .db => .ok (.ldmdbRet c w n l)
  | false, true, _, _ => .error .caretStorePc
  | _, false, true, _ => .error .caretWriteBack
  | true, false, false, .ia => .ok (.ldmiaUsr c n l)
  | true, false, false, .ib => .ok (.ldmibUsr c n l)
  | true, false, false, .da => .ok (.ldmdaUsr c n l)
  | true, false, false, .db => .ok (.ldmdbUsr c n l)
  | false, false, false, .ia => .ok (.stmiaUsr c n l)
  | false, false, false, .ib => .ok (.stmibUsr c n l)
  | false, false, false, .da => .ok (.stmdaUsr c n l)
  | false, false, false, .db => .ok (.stmdbUsr c n l)

/-- A single transfer (R100, R101, R104, R106). -/
def asmTransfer (at_ : Word) (load : Bool) (c : Cond) (ty : AsmType) (user : Bool) (d : RegNum)
    (a : AsmAddr) : Except AsmError Instr :=
  match ty with
  | .word =>
    match a, user with
    | .post n o, _ => asmWordPost load false user c d n o
    | _, true => .error .userWithPreIndexed
    | .plain n, false => asmWordPre load false c d n false (.imm true 0)
    | .pre n o wb, false => asmWordPre load false c d n wb o
    | .label t, false => asmLabel load c d at_ t
  | .b =>
    match a, user with
    | .post n o, _ => asmWordPost load true user c d n o
    | _, true => .error .userWithPreIndexed
    | .plain n, false => asmWordPre load true c d n false (.imm true 0)
    | .pre n o wb, false => asmWordPre load true c d n wb o
    | .label _, false => .error .noLabelForm
  | ty =>
    match a, user with
    | _, true => .error .noUserForm
    | .plain n, false => asmHalf load ty c d n (some false) (.imm true 0)
    | .pre n o wb, false => asmHalf load ty c d n (some wb) o
    | .post n o, false => asmHalf load ty c d n none o
    | .label _, false => .error .noLabelForm

/-- The instruction a line at an address stands for (R100 to R108). -/
def assemble (at_ : Word) : Asm → Except AsmError Instr
  | .transfer load c ty user d a => asmTransfer at_ load (c.getD .al) ty user d a
  | .block load c mode n wb list caret =>
    if caret then asmCaret load (c.getD .al) (mode.blockMode load) wb n (listField list)
    else .ok (asmBlock load (c.getD .al) (mode.blockMode load) wb n (listField list))
  | .swi c k =>
    if k ≤ 0xFFFFFF then .ok (.swi (c.getD .al) (BitVec.ofNat 24 k)) else .error .immediateRange
  | .swp c b d m n => .ok (if b then .swpb (c.getD .al) n d m else .swp (c.getD .al) n d m)
  | .clz c d m => .ok (.clz (c.getD .al) d m)
  | .mrc c d crn crm op2 => .ok (.mrc (c.getD .al) crn d op2 crm)
  | .mcr c d crn crm op2 => .ok (.mcr (c.getD .al) crn d op2 crm)

end Sys2Proof.Machine
end

