-- ==== Sys2Proof/Laws/Assembler.lean ====
section
/-! SUPPORT. What the LABEL form assembles to (spec 30_encoding.md R104; 40_single_word_byte.md R132,
R133). -/

namespace Sys2Proof.Machine

/-- LDR or STR with LABEL is the pre-indexed immediate form on r15 without write-back whose address,
with r15 reading as the address of the instruction + 8, is the label. -/
theorem asmLabel_address {load : Bool} {c : Cond} {d : RegNum} {a t : Word} {i : Instr}
    (h : asmLabel load c d a t = .ok i) :
    ∃ (u : Bool) (k : BitVec 12),
      i = (if load then .ldrImmPre c u false 15 d k else .strImmPre c u false 15 d k) ∧
      (if u then a + 8 + k.setWidth 32 else a + 8 - k.setWidth 32) = t := by
  unfold asmLabel at h
  generalize hx : t - (a + 8) = x at h
  have ht : t = a + 8 + x := by rw [← hx]; simp
  have hi := BitVec.toInt_eq_toNat_cond x
  dsimp only at h
  split at h
  · next hr =>
    refine ⟨true, BitVec.ofNat 12 x.toInt.toNat, ?_, ?_⟩
    · have hk : ¬ 4095 < x.toInt.toNat := by omega
      simp only [asmWordPre, hk, if_false] at h
      cases load <;> exact (Except.ok.inj h).symm
    · have e : (BitVec.ofNat 12 x.toInt.toNat).setWidth 32 = x := by
        apply BitVec.eq_of_toNat_eq
        simp only [BitVec.toNat_setWidth, BitVec.toNat_ofNat]
        have := x.isLt
        split at hi <;> omega
      rw [if_pos rfl, e, ht]
  · split at h
    · next hr =>
      refine ⟨false, BitVec.ofNat 12 (-x.toInt).toNat, ?_, ?_⟩
      · have hk : ¬ 4095 < (-x.toInt).toNat := by omega
        simp only [asmWordPre, hk, if_false] at h
        cases load <;> exact (Except.ok.inj h).symm
      · have e : (BitVec.ofNat 12 (-x.toInt).toNat).setWidth 32 = -x := by
          apply BitVec.eq_of_toNat_eq
          simp only [BitVec.toNat_setWidth, BitVec.toNat_ofNat, BitVec.toNat_neg]
          have := x.isLt
          split at hi <;> omega
        rw [if_neg Bool.false_ne_true, e, ht]
        simp
    · cases h

end Sys2Proof.Machine
end

