-- ==== Sys2Proof/Laws/Encode.lean ====
section
/-! SUPPORT. The fields of the encoded words, format by format (spec 30_encoding.md R83 to R94). -/

namespace Sys2Proof

theorem extract_low {w v lo len : Nat} (a : BitVec w) (b : BitVec v) (h : lo + len ≤ v) :
    (a ++ b).extractLsb' lo len = b.extractLsb' lo len :=
  BitVec.extractLsb'_append_eq_of_add_le h

theorem extract_high {w v lo len : Nat} (a : BitVec w) (b : BitVec v) (h : v ≤ lo) :
    (a ++ b).extractLsb' lo len = a.extractLsb' (lo - v) len :=
  BitVec.extractLsb'_append_eq_of_le h

theorem bit_low {w v k : Nat} (a : BitVec w) (b : BitVec v) (h : k < v) :
    (a ++ b).getLsbD k = b.getLsbD k := by rw [BitVec.getLsbD_append, if_pos h]

theorem bit_high {w v k : Nat} (a : BitVec w) (b : BitVec v) (h : v ≤ k) :
    (a ++ b).getLsbD k = a.getLsbD (k - v) := by
  rw [BitVec.getLsbD_append, if_neg (Nat.not_lt.mpr h)]

theorem bit_ofBool (x : Bool) : (BitVec.ofBool x).getLsbD 0 = x := by cases x <;> rfl

/-- The masked fields of a word side by side. -/
theorem and_fields {w v : Nat} {a c r : BitVec w} {b d t : BitVec v} (h : a &&& c = r)
    (k : b &&& d = t) : (a ++ b) &&& (c ++ d) = r ++ t := by rw [BitVec.and_append, h, k]

theorem and_ofBool (p : Bool) : BitVec.ofBool p &&& 1#1 = BitVec.ofBool p := by cases p <;> rfl

theorem Cond.ofBits_bits (c : Cond) : Cond.ofBits c.bits = some c := by cases c <;> rfl

theorem ShiftKind.ofBits_bits (k : ShiftKind) : ShiftKind.ofBits k.bits = k := by cases k <;> rfl

/-- Bit 15 of a register list. -/
theorem list_and_bit15 (list : BitVec 16) :
    list &&& 0x8000#16 = BitVec.ofBool (list.getLsbD 15) ++ 0#15 := by
  apply BitVec.eq_of_getLsbD_eq
  intro i hi
  have h : i < 15 ∨ i = 15 := by omega
  rw [BitVec.getLsbD_and, show (0x8000#16).getLsbD i = decide (i = 15) by
    rcases h with h | h
    · have : ∀ k < 15, (0x8000#16).getLsbD k = false := by decide
      rw [this i h]; exact (decide_eq_false (by omega)).symm
    · subst h; rfl]
  rcases h with h | h
  · rw [bit_low _ _ h]; simp [show ¬ i = 15 by omega]
  · subst h
    rw [bit_high _ _ (Nat.le_refl 15), Nat.sub_self, bit_ofBool]
    simp

/-- Two neighbouring fields of a word are one field. -/
theorem field_append (w : Word) (lo l1 l2 : Nat) :
    fieldOf w (lo + l2) l1 ++ fieldOf w lo l2 = fieldOf w lo (l1 + l2) := by
  apply BitVec.eq_of_getLsbD_eq
  intro i hi
  unfold fieldOf
  by_cases h : i < l2
  · rw [bit_low _ _ h]; simp [h, hi]
  · rw [bit_high _ _ (by omega)]
    simp [hi, show i - l2 < l1 by omega, show lo + l2 + (i - l2) = lo + i by omega]

/-- A bit of a word is a field of one bit. -/
theorem field_bit (w : Word) (k : Nat) : fieldOf w k 1 = BitVec.ofBool (w.getLsbD k) := by
  apply BitVec.eq_of_getLsbD_eq
  intro i hi
  have h : i = 0 := by omega
  subst h
  rw [bit_ofBool]
  simp [fieldOf]

/-- The whole word is a field. -/
theorem field_whole (w : Word) : fieldOf w 0 32 = w := BitVec.extractLsb'_eq_self

theorem sdtImm_field28 (c : Cond) (p u b w l : Bool) (n d : RegNum) (imm : BitVec 12) :
    fieldOf (encodeSdtImm c p u b w l n d imm) 28 4 = c.bits := by
  unfold fieldOf encodeSdtImm
  rw [extract_high _ _ (by decide), extract_high _ _ (by decide), extract_high _ _ (by decide), extract_high _ _ (by decide), extract_high _ _ (by decide), extract_high _ _ (by decide), extract_high _ _ (by decide), extract_high _ _ (by decide), extract_high _ _ (by decide)]
  exact BitVec.extractLsb'_eq_self

theorem sdtImm_bit27 (c : Cond) (p u b w l : Bool) (n d : RegNum) (imm : BitVec 12) :
    (encodeSdtImm c p u b w l n d imm).getLsbD 27 = false := by
  unfold encodeSdtImm
  rw [bit_high _ _ (by decide), bit_high _ _ (by decide), bit_high _ _ (by decide), bit_high _ _ (by decide), bit_high _ _ (by decide), bit_high _ _ (by decide), bit_high _ _ (by decide), bit_high _ _ (by decide), bit_low _ _ (by decide)]
  rfl

theorem sdtImm_bit26 (c : Cond) (p u b w l : Bool) (n d : RegNum) (imm : BitVec 12) :
    (encodeSdtImm c p u b w l n d imm).getLsbD 26 = true := by
  unfold encodeSdtImm
  rw [bit_high _ _ (by decide), bit_high _ _ (by decide), bit_high _ _ (by decide), bit_high _ _ (by decide), bit_high _ _ (by decide), bit_high _ _ (by decide), bit_high _ _ (by decide), bit_high _ _ (by decide), bit_low _ _ (by decide)]
  rfl

theorem sdtImm_bit25 (c : Cond) (p u b w l : Bool) (n d : RegNum) (imm : BitVec 12) :
    (encodeSdtImm c p u b w l n d imm).getLsbD 25 = false := by
  unfold encodeSdtImm
  rw [bit_high _ _ (by decide), bit_high _ _ (by decide), bit_high _ _ (by decide), bit_high _ _ (by decide), bit_high _ _ (by decide), bit_high _ _ (by decide), bit_high _ _ (by decide), bit_high _ _ (by decide), bit_low _ _ (by decide)]
  rfl

theorem sdtImm_bit24 (c : Cond) (p u b w l : Bool) (n d : RegNum) (imm : BitVec 12) :
    (encodeSdtImm c p u b w l n d imm).getLsbD 24 = p := by
  unfold encodeSdtImm
  rw [bit_high _ _ (by decide), bit_high _ _ (by decide), bit_high _ _ (by decide), bit_high _ _ (by decide), bit_high _ _ (by decide), bit_high _ _ (by decide), bit_high _ _ (by decide), bit_low _ _ (by decide)]
  exact bit_ofBool _

theorem sdtImm_bit23 (c : Cond) (p u b w l : Bool) (n d : RegNum) (imm : BitVec 12) :
    (encodeSdtImm c p u b w l n d imm).getLsbD 23 = u := by
  unfold encodeSdtImm
  rw [bit_high _ _ (by decide), bit_high _ _ (by decide), bit_high _ _ (by decide), bit_high _ _ (by decide), bit_high _ _ (by decide), bit_high _ _ (by decide), bit_low _ _ (by decide)]
  exact bit_ofBool _

theorem sdtImm_bit22 (c : Cond) (p u b w l : Bool) (n d : RegNum) (imm : BitVec 12) :
    (encodeSdtImm c p u b w l n d imm).getLsbD 22 = b := by
  unfold encodeSdtImm
  rw [bit_high _ _ (by decide), bit_high _ _ (by decide), bit_high _ _ (by decide), bit_high _ _ (by decide), bit_high _ _ (by decide), bit_low _ _ (by decide)]
  exact bit_ofBool _

theorem sdtImm_bit21 (c : Cond) (p u b w l : Bool) (n d : RegNum) (imm : BitVec 12) :
    (encodeSdtImm c p u b w l n d imm).getLsbD 21 = w := by
  unfold encodeSdtImm
  rw [bit_high _ _ (by decide), bit_high _ _ (by decide), bit_high _ _ (by decide), bit_high _ _ (by decide), bit_low _ _ (by decide)]
  exact bit_ofBool _

theorem sdtImm_bit20 (c : Cond) (p u b w l : Bool) (n d : RegNum) (imm : BitVec 12) :
    (encodeSdtImm c p u b w l n d imm).getLsbD 20 = l := by
  unfold encodeSdtImm
  rw [bit_high _ _ (by decide), bit_high _ _ (by decide), bit_high _ _ (by decide), bit_low _ _ (by decide)]
  exact bit_ofBool _

theorem sdtImm_field16 (c : Cond) (p u b w l : Bool) (n d : RegNum) (imm : BitVec 12) :
    fieldOf (encodeSdtImm c p u b w l n d imm) 16 4 = n := by
  unfold fieldOf encodeSdtImm
  rw [extract_high _ _ (by decide), extract_high _ _ (by decide), extract_low _ _ (by decide)]
  exact BitVec.extractLsb'_eq_self

theorem sdtImm_field12 (c : Cond) (p u b w l : Bool) (n d : RegNum) (imm : BitVec 12) :
    fieldOf (encodeSdtImm c p u b w l n d imm) 12 4 = d := by
  unfold fieldOf encodeSdtImm
  rw [extract_high _ _ (by decide), extract_low _ _ (by decide)]
  exact BitVec.extractLsb'_eq_self

theorem sdtImm_field0 (c : Cond) (p u b w l : Bool) (n d : RegNum) (imm : BitVec 12) :
    fieldOf (encodeSdtImm c p u b w l n d imm) 0 12 = imm := by
  unfold fieldOf encodeSdtImm
  rw [extract_low _ _ (by decide)]
  exact BitVec.extractLsb'_eq_self

theorem sdtReg_field28 (c : Cond) (p u b w l : Bool) (n d : RegNum) (amt : BitVec 5) (sh : ShiftKind) (m : RegNum) :
    fieldOf (encodeSdtReg c p u b w l n d amt sh m) 28 4 = c.bits := by
  unfold fieldOf encodeSdtReg
  rw [extract_high _ _ (by decide), extract_high _ _ (by decide), extract_high _ _ (by decide), extract_high _ _ (by decide), extract_high _ _ (by decide), extract_high _ _ (by decide), extract_high _ _ (by decide), extract_high _ _ (by decide), extract_high _ _ (by decide), extract_high _ _ (by decide), extract_high _ _ (by decide), extract_high _ _ (by decide)]
  exact BitVec.extractLsb'_eq_self

theorem sdtReg_bit27 (c : Cond) (p u b w l : Bool) (n d : RegNum) (amt : BitVec 5) (sh : ShiftKind) (m : RegNum) :
    (encodeSdtReg c p u b w l n d amt sh m).getLsbD 27 = false := by
  unfold encodeSdtReg
  rw [bit_high _ _ (by decide), bit_high _ _ (by decide), bit_high _ _ (by decide), bit_high _ _ (by decide), bit_high _ _ (by decide), bit_high _ _ (by decide), bit_high _ _ (by decide), bit_high _ _ (by decide), bit_high _ _ (by decide), bit_high _ _ (by decide), bit_high _ _ (by decide), bit_low _ _ (by decide)]
  rfl

theorem sdtReg_bit26 (c : Cond) (p u b w l : Bool) (n d : RegNum) (amt : BitVec 5) (sh : ShiftKind) (m : RegNum) :
    (encodeSdtReg c p u b w l n d amt sh m).getLsbD 26 = true := by
  unfold encodeSdtReg
  rw [bit_high _ _ (by decide), bit_high _ _ (by decide), bit_high _ _ (by decide), bit_high _ _ (by decide), bit_high _ _ (by decide), bit_high _ _ (by decide), bit_high _ _ (by decide), bit_high _ _ (by decide), bit_high _ _ (by decide), bit_high _ _ (by decide), bit_high _ _ (by decide), bit_low _ _ (by decide)]
  rfl

theorem sdtReg_bit25 (c : Cond) (p u b w l : Bool) (n d : RegNum) (amt : BitVec 5) (sh : ShiftKind) (m : RegNum) :
    (encodeSdtReg c p u b w l n d amt sh m).getLsbD 25 = true := by
  unfold encodeSdtReg
  rw [bit_high _ _ (by decide), bit_high _ _ (by decide), bit_high _ _ (by decide), bit_high _ _ (by decide), bit_high _ _ (by decide), bit_high _ _ (by decide), bit_high _ _ (by decide), bit_high _ _ (by decide), bit_high _ _ (by decide), bit_high _ _ (by decide), bit_high _ _ (by decide), bit_low _ _ (by decide)]
  rfl

theorem sdtReg_bit24 (c : Cond) (p u b w l : Bool) (n d : RegNum) (amt : BitVec 5) (sh : ShiftKind) (m : RegNum) :
    (encodeSdtReg c p u b w l n d amt sh m).getLsbD 24 = p := by
  unfold encodeSdtReg
  rw [bit_high _ _ (by decide), bit_high _ _ (by decide), bit_high _ _ (by decide), bit_high _ _ (by decide), bit_high _ _ (by decide), bit_high _ _ (by decide), bit_high _ _ (by decide), bit_high _ _ (by decide), bit_high _ _ (by decide), bit_high _ _ (by decide), bit_low _ _ (by decide)]
  exact bit_ofBool _

theorem sdtReg_bit23 (c : Cond) (p u b w l : Bool) (n d : RegNum) (amt : BitVec 5) (sh : ShiftKind) (m : RegNum) :
    (encodeSdtReg c p u b w l n d amt sh m).getLsbD 23 = u := by
  unfold encodeSdtReg
  rw [bit_high _ _ (by decide), bit_high _ _ (by decide), bit_high _ _ (by decide), bit_high _ _ (by decide), bit_high _ _ (by decide), bit_high _ _ (by decide), bit_high _ _ (by decide), bit_high _ _ (by decide), bit_high _ _ (by decide), bit_low _ _ (by decide)]
  exact bit_ofBool _

theorem sdtReg_bit22 (c : Cond) (p u b w l : Bool) (n d : RegNum) (amt : BitVec 5) (sh : ShiftKind) (m : RegNum) :
    (encodeSdtReg c p u b w l n d amt sh m).getLsbD 22 = b := by
  unfold encodeSdtReg
  rw [bit_high _ _ (by decide), bit_high _ _ (by decide), bit_high _ _ (by decide), bit_high _ _ (by decide), bit_high _ _ (by decide), bit_high _ _ (by decide), bit_high _ _ (by decide), bit_high _ _ (by decide), bit_low _ _ (by decide)]
  exact bit_ofBool _

theorem sdtReg_bit21 (c : Cond) (p u b w l : Bool) (n d : RegNum) (amt : BitVec 5) (sh : ShiftKind) (m : RegNum) :
    (encodeSdtReg c p u b w l n d amt sh m).getLsbD 21 = w := by
  unfold encodeSdtReg
  rw [bit_high _ _ (by decide), bit_high _ _ (by decide), bit_high _ _ (by decide), bit_high _ _ (by decide), bit_high _ _ (by decide), bit_high _ _ (by decide), bit_high _ _ (by decide), bit_low _ _ (by decide)]
  exact bit_ofBool _

theorem sdtReg_bit20 (c : Cond) (p u b w l : Bool) (n d : RegNum) (amt : BitVec 5) (sh : ShiftKind) (m : RegNum) :
    (encodeSdtReg c p u b w l n d amt sh m).getLsbD 20 = l := by
  unfold encodeSdtReg
  rw [bit_high _ _ (by decide), bit_high _ _ (by decide), bit_high _ _ (by decide), bit_high _ _ (by decide), bit_high _ _ (by decide), bit_high _ _ (by decide), bit_low _ _ (by decide)]
  exact bit_ofBool _

theorem sdtReg_field16 (c : Cond) (p u b w l : Bool) (n d : RegNum) (amt : BitVec 5) (sh : ShiftKind) (m : RegNum) :
    fieldOf (encodeSdtReg c p u b w l n d amt sh m) 16 4 = n := by
  unfold fieldOf encodeSdtReg
  rw [extract_high _ _ (by decide), extract_high _ _ (by decide), extract_high _ _ (by decide), extract_high _ _ (by decide), extract_high _ _ (by decide), extract_low _ _ (by decide)]
  exact BitVec.extractLsb'_eq_self

theorem sdtReg_field12 (c : Cond) (p u b w l : Bool) (n d : RegNum) (amt : BitVec 5) (sh : ShiftKind) (m : RegNum) :
    fieldOf (encodeSdtReg c p u b w l n d amt sh m) 12 4 = d := by
  unfold fieldOf encodeSdtReg
  rw [extract_high _ _ (by decide), extract_high _ _ (by decide), extract_high _ _ (by decide), extract_high _ _ (by decide), extract_low _ _ (by decide)]
  exact BitVec.extractLsb'_eq_self

theorem sdtReg_field7 (c : Cond) (p u b w l : Bool) (n d : RegNum) (amt : BitVec 5) (sh : ShiftKind) (m : RegNum) :
    fieldOf (encodeSdtReg c p u b w l n d amt sh m) 7 5 = amt := by
  unfold fieldOf encodeSdtReg
  rw [extract_high _ _ (by decide), extract_high _ _ (by decide), extract_high _ _ (by decide), extract_low _ _ (by decide)]
  exact BitVec.extractLsb'_eq_self

theorem sdtReg_field5 (c : Cond) (p u b w l : Bool) (n d : RegNum) (amt : BitVec 5) (sh : ShiftKind) (m : RegNum) :
    fieldOf (encodeSdtReg c p u b w l n d amt sh m) 5 2 = sh.bits := by
  unfold fieldOf encodeSdtReg
  rw [extract_high _ _ (by decide), extract_high _ _ (by decide), extract_low _ _ (by decide)]
  exact BitVec.extractLsb'_eq_self

theorem sdtReg_bit4 (c : Cond) (p u b w l : Bool) (n d : RegNum) (amt : BitVec 5) (sh : ShiftKind) (m : RegNum) :
    (encodeSdtReg c p u b w l n d amt sh m).getLsbD 4 = false := by
  unfold encodeSdtReg
  rw [bit_high _ _ (by decide), bit_low _ _ (by decide)]
  rfl

theorem sdtReg_field0 (c : Cond) (p u b w l : Bool) (n d : RegNum) (amt : BitVec 5) (sh : ShiftKind) (m : RegNum) :
    fieldOf (encodeSdtReg c p u b w l n d amt sh m) 0 4 = m := by
  unfold fieldOf encodeSdtReg
  rw [extract_low _ _ (by decide)]
  exact BitVec.extractLsb'_eq_self

theorem hsdtImm_field28 (c : Cond) (p u w l s h : Bool) (n d : RegNum) (imm : BitVec 8) :
    fieldOf (encodeHsdtImm c p u w l s h n d imm) 28 4 = c.bits := by
  unfold fieldOf encodeHsdtImm
  rw [extract_high _ _ (by decide), extract_high _ _ (by decide), extract_high _ _ (by decide), extract_high _ _ (by decide), extract_high _ _ (by decide), extract_high _ _ (by decide), extract_high _ _ (by decide), extract_high _ _ (by decide), extract_high _ _ (by decide), extract_high _ _ (by decide), extract_high _ _ (by decide), extract_high _ _ (by decide), extract_high _ _ (by decide), extract_high _ _ (by decide)]
  exact BitVec.extractLsb'_eq_self

theorem hsdtImm_bit27 (c : Cond) (p u w l s h : Bool) (n d : RegNum) (imm : BitVec 8) :
    (encodeHsdtImm c p u w l s h n d imm).getLsbD 27 = false := by
  unfold encodeHsdtImm
  rw [bit_high _ _ (by decide), bit_high _ _ (by decide), bit_high _ _ (by decide), bit_high _ _ (by decide), bit_high _ _ (by decide), bit_high _ _ (by decide), bit_high _ _ (by decide), bit_high _ _ (by decide), bit_high _ _ (by decide), bit_high _ _ (by decide), bit_high _ _ (by decide), bit_high _ _ (by decide), bit_high _ _ (by decide), bit_low _ _ (by decide)]
  rfl

theorem hsdtImm_bit26 (c : Cond) (p u w l s h : Bool) (n d : RegNum) (imm : BitVec 8) :
    (encodeHsdtImm c p u w l s h n d imm).getLsbD 26 = false := by
  unfold encodeHsdtImm
  rw [bit_high _ _ (by decide), bit_high _ _ (by decide), bit_high _ _ (by decide), bit_high _ _ (by decide), bit_high _ _ (by decide), bit_high _ _ (by decide), bit_high _ _ (by decide), bit_high _ _ (by decide), bit_high _ _ (by decide), bit_high _ _ (by decide), bit_high _ _ (by decide), bit_high _ _ (by decide), bit_high _ _ (by decide), bit_low _ _ (by decide)]
  rfl

theorem hsdtImm_bit25 (c : Cond) (p u w l s h : Bool) (n d : RegNum) (imm : BitVec 8) :
    (encodeHsdtImm c p u w l s h n d imm).getLsbD 25 = false := by
  unfold encodeHsdtImm
  rw [bit_high _ _ (by decide), bit_high _ _ (by decide), bit_high _ _ (by decide), bit_high _ _ (by decide), bit_high _ _ (by decide), bit_high _ _ (by decide), bit_high _ _ (by decide), bit_high _ _ (by decide), bit_high _ _ (by decide), bit_high _ _ (by decide), bit_high _ _ (by decide), bit_high _ _ (by decide), bit_high _ _ (by decide), bit_low _ _ (by decide)]
  rfl

theorem hsdtImm_bit24 (c : Cond) (p u w l s h : Bool) (n d : RegNum) (imm : BitVec 8) :
    (encodeHsdtImm c p u w l s h n d imm).getLsbD 24 = p := by
  unfold encodeHsdtImm
  rw [bit_high _ _ (by decide), bit_high _ _ (by decide), bit_high _ _ (by decide), bit_high _ _ (by decide), bit_high _ _ (by decide), bit_high _ _ (by decide), bit_high _ _ (by decide), bit_high _ _ (by decide), bit_high _ _ (by decide), bit_high _ _ (by decide), bit_high _ _ (by decide), bit_high _ _ (by decide), bit_low _ _ (by decide)]
  exact bit_ofBool _

theorem hsdtImm_bit23 (c : Cond) (p u w l s h : Bool) (n d : RegNum) (imm : BitVec 8) :
    (encodeHsdtImm c p u w l s h n d imm).getLsbD 23 = u := by
  unfold encodeHsdtImm
  rw [bit_high _ _ (by decide), bit_high _ _ (by decide), bit_high _ _ (by decide), bit_high _ _ (by decide), bit_high _ _ (by decide), bit_high _ _ (by decide), bit_high _ _ (by decide), bit_high _ _ (by decide), bit_high _ _ (by decide), bit_high _ _ (by decide), bit_high _ _ (by decide), bit_low _ _ (by decide)]
  exact bit_ofBool _

theorem hsdtImm_bit22 (c : Cond) (p u w l s h : Bool) (n d : RegNum) (imm : BitVec 8) :
    (encodeHsdtImm c p u w l s h n d imm).getLsbD 22 = true := by
  unfold encodeHsdtImm
  rw [bit_high _ _ (by decide), bit_high _ _ (by decide), bit_high _ _ (by decide), bit_high _ _ (by decide), bit_high _ _ (by decide), bit_high _ _ (by decide), bit_high _ _ (by decide), bit_high _ _ (by decide), bit_high _ _ (by decide), bit_high _ _ (by decide), bit_low _ _ (by decide)]
  rfl

theorem hsdtImm_bit21 (c : Cond) (p u w l s h : Bool) (n d : RegNum) (imm : BitVec 8) :
    (encodeHsdtImm c p u w l s h n d imm).getLsbD 21 = w := by
  unfold encodeHsdtImm
  rw [bit_high _ _ (by decide), bit_high _ _ (by decide), bit_high _ _ (by decide), bit_high _ _ (by decide), bit_high _ _ (by decide), bit_high _ _ (by decide), bit_high _ _ (by decide), bit_high _ _ (by decide), bit_high _ _ (by decide), bit_low _ _ (by decide)]
  exact bit_ofBool _

theorem hsdtImm_bit20 (c : Cond) (p u w l s h : Bool) (n d : RegNum) (imm : BitVec 8) :
    (encodeHsdtImm c p u w l s h n d imm).getLsbD 20 = l := by
  unfold encodeHsdtImm
  rw [bit_high _ _ (by decide), bit_high _ _ (by decide), bit_high _ _ (by decide), bit_high _ _ (by decide), bit_high _ _ (by decide), bit_high _ _ (by decide), bit_high _ _ (by decide), bit_high _ _ (by decide), bit_low _ _ (by decide)]
  exact bit_ofBool _

theorem hsdtImm_field16 (c : Cond) (p u w l s h : Bool) (n d : RegNum) (imm : BitVec 8) :
    fieldOf (encodeHsdtImm c p u w l s h n d imm) 16 4 = n := by
  unfold fieldOf encodeHsdtImm
  rw [extract_high _ _ (by decide), extract_high _ _ (by decide), extract_high _ _ (by decide), extract_high _ _ (by decide), extract_high _ _ (by decide), extract_high _ _ (by decide), extract_high _ _ (by decide), extract_low _ _ (by decide)]
  exact BitVec.extractLsb'_eq_self

theorem hsdtImm_field12 (c : Cond) (p u w l s h : Bool) (n d : RegNum) (imm : BitVec 8) :
    fieldOf (encodeHsdtImm c p u w l s h n d imm) 12 4 = d := by
  unfold fieldOf encodeHsdtImm
  rw [extract_high _ _ (by decide), extract_high _ _ (by decide), extract_high _ _ (by decide), extract_high _ _ (by decide), extract_high _ _ (by decide), extract_high _ _ (by decide), extract_low _ _ (by decide)]
  exact BitVec.extractLsb'_eq_self

theorem hsdtImm_field8 (c : Cond) (p u w l s h : Bool) (n d : RegNum) (imm : BitVec 8) :
    fieldOf (encodeHsdtImm c p u w l s h n d imm) 8 4 = imm.extractLsb' 4 4 := by
  unfold fieldOf encodeHsdtImm
  rw [extract_high _ _ (by decide), extract_high _ _ (by decide), extract_high _ _ (by decide), extract_high _ _ (by decide), extract_high _ _ (by decide), extract_low _ _ (by decide)]
  exact BitVec.extractLsb'_eq_self

theorem hsdtImm_bit7 (c : Cond) (p u w l s h : Bool) (n d : RegNum) (imm : BitVec 8) :
    (encodeHsdtImm c p u w l s h n d imm).getLsbD 7 = true := by
  unfold encodeHsdtImm
  rw [bit_high _ _ (by decide), bit_high _ _ (by decide), bit_high _ _ (by decide), bit_high _ _ (by decide), bit_low _ _ (by decide)]
  rfl

theorem hsdtImm_bit6 (c : Cond) (p u w l s h : Bool) (n d : RegNum) (imm : BitVec 8) :
    (encodeHsdtImm c p u w l s h n d imm).getLsbD 6 = s := by
  unfold encodeHsdtImm
  rw [bit_high _ _ (by decide), bit_high _ _ (by decide), bit_high _ _ (by decide), bit_low _ _ (by decide)]
  exact bit_ofBool _

theorem hsdtImm_bit5 (c : Cond) (p u w l s h : Bool) (n d : RegNum) (imm : BitVec 8) :
    (encodeHsdtImm c p u w l s h n d imm).getLsbD 5 = h := by
  unfold encodeHsdtImm
  rw [bit_high _ _ (by decide), bit_high _ _ (by decide), bit_low _ _ (by decide)]
  exact bit_ofBool _

theorem hsdtImm_bit4 (c : Cond) (p u w l s h : Bool) (n d : RegNum) (imm : BitVec 8) :
    (encodeHsdtImm c p u w l s h n d imm).getLsbD 4 = true := by
  unfold encodeHsdtImm
  rw [bit_high _ _ (by decide), bit_low _ _ (by decide)]
  rfl

theorem hsdtImm_field0 (c : Cond) (p u w l s h : Bool) (n d : RegNum) (imm : BitVec 8) :
    fieldOf (encodeHsdtImm c p u w l s h n d imm) 0 4 = imm.extractLsb' 0 4 := by
  unfold fieldOf encodeHsdtImm
  rw [extract_low _ _ (by decide)]
  exact BitVec.extractLsb'_eq_self

theorem hsdtImm_field5 (c : Cond) (p u w l s h : Bool) (n d : RegNum) (imm : BitVec 8) :
    fieldOf (encodeHsdtImm c p u w l s h n d imm) 5 2 = BitVec.ofBool s ++ BitVec.ofBool h := by
  apply BitVec.eq_of_getLsbD_eq
  intro i hi
  have e : i = 0 ∨ i = 1 := by omega
  rw [fieldOf, BitVec.getLsbD_extractLsb', decide_eq_true hi, Bool.true_and]
  rcases e with rfl | rfl
  · rw [hsdtImm_bit5, bit_low _ _ (by decide), bit_ofBool]
  · rw [hsdtImm_bit6, bit_high _ _ (by decide), Nat.sub_self, bit_ofBool]

theorem halves_of_byte (x : BitVec 8) : x.extractLsb' 4 4 ++ x.extractLsb' 0 4 = x := by
  apply BitVec.eq_of_getLsbD_eq
  intro i hi
  by_cases h : i < 4
  · rw [bit_low _ _ h, BitVec.getLsbD_extractLsb']; simp [h]
  · rw [bit_high _ _ (by omega), BitVec.getLsbD_extractLsb']
    simp [show i - 4 < 4 by omega, show 4 + (i - 4) = i by omega]

theorem hsdtReg_field28 (c : Cond) (p u w l s h : Bool) (n d m : RegNum) :
    fieldOf (encodeHsdtReg c p u w l s h n d m) 28 4 = c.bits := by
  unfold fieldOf encodeHsdtReg
  rw [extract_high _ _ (by decide), extract_high _ _ (by decide), extract_high _ _ (by decide), extract_high _ _ (by decide), extract_high _ _ (by decide), extract_high _ _ (by decide), extract_high _ _ (by decide), extract_high _ _ (by decide), extract_high _ _ (by decide), extract_high _ _ (by decide), extract_high _ _ (by decide), extract_high _ _ (by decide), extract_high _ _ (by decide), extract_high _ _ (by decide)]
  exact BitVec.extractLsb'_eq_self

theorem hsdtReg_bit27 (c : Cond) (p u w l s h : Bool) (n d m : RegNum) :
    (encodeHsdtReg c p u w l s h n d m).getLsbD 27 = false := by
  unfold encodeHsdtReg
  rw [bit_high _ _ (by decide), bit_high _ _ (by decide), bit_high _ _ (by decide), bit_high _ _ (by decide), bit_high _ _ (by decide), bit_high _ _ (by decide), bit_high _ _ (by decide), bit_high _ _ (by decide), bit_high _ _ (by decide), bit_high _ _ (by decide), bit_high _ _ (by decide), bit_high _ _ (by decide), bit_high _ _ (by decide), bit_low _ _ (by decide)]
  rfl

theorem hsdtReg_bit26 (c : Cond) (p u w l s h : Bool) (n d m : RegNum) :
    (encodeHsdtReg c p u w l s h n d m).getLsbD 26 = false := by
  unfold encodeHsdtReg
  rw [bit_high _ _ (by decide), bit_high _ _ (by decide), bit_high _ _ (by decide), bit_high _ _ (by decide), bit_high _ _ (by decide), bit_high _ _ (by decide), bit_high _ _ (by decide), bit_high _ _ (by decide), bit_high _ _ (by decide), bit_high _ _ (by decide), bit_high _ _ (by decide), bit_high _ _ (by decide), bit_high _ _ (by decide), bit_low _ _ (by decide)]
  rfl

theorem hsdtReg_bit25 (c : Cond) (p u w l s h : Bool) (n d m : RegNum) :
    (encodeHsdtReg c p u w l s h n d m).getLsbD 25 = false := by
  unfold encodeHsdtReg
  rw [bit_high _ _ (by decide), bit_high _ _ (by decide), bit_high _ _ (by decide), bit_high _ _ (by decide), bit_high _ _ (by decide), bit_high _ _ (by decide), bit_high _ _ (by decide), bit_high _ _ (by decide), bit_high _ _ (by decide), bit_high _ _ (by decide), bit_high _ _ (by decide), bit_high _ _ (by decide), bit_high _ _ (by decide), bit_low _ _ (by decide)]
  rfl

theorem hsdtReg_bit24 (c : Cond) (p u w l s h : Bool) (n d m : RegNum) :
    (encodeHsdtReg c p u w l s h n d m).getLsbD 24 = p := by
  unfold encodeHsdtReg
  rw [bit_high _ _ (by decide), bit_high _ _ (by decide), bit_high _ _ (by decide), bit_high _ _ (by decide), bit_high _ _ (by decide), bit_high _ _ (by decide), bit_high _ _ (by decide), bit_high _ _ (by decide), bit_high _ _ (by decide), bit_high _ _ (by decide), bit_high _ _ (by decide), bit_high _ _ (by decide), bit_low _ _ (by decide)]
  exact bit_ofBool _

theorem hsdtReg_bit23 (c : Cond) (p u w l s h : Bool) (n d m : RegNum) :
    (encodeHsdtReg c p u w l s h n d m).getLsbD 23 = u := by
  unfold encodeHsdtReg
  rw [bit_high _ _ (by decide), bit_high _ _ (by decide), bit_high _ _ (by decide), bit_high _ _ (by decide), bit_high _ _ (by decide), bit_high _ _ (by decide), bit_high _ _ (by decide), bit_high _ _ (by decide), bit_high _ _ (by decide), bit_high _ _ (by decide), bit_high _ _ (by decide), bit_low _ _ (by decide)]
  exact bit_ofBool _

theorem hsdtReg_bit22 (c : Cond) (p u w l s h : Bool) (n d m : RegNum) :
    (encodeHsdtReg c p u w l s h n d m).getLsbD 22 = false := by
  unfold encodeHsdtReg
  rw [bit_high _ _ (by decide), bit_high _ _ (by decide), bit_high _ _ (by decide), bit_high _ _ (by decide), bit_high _ _ (by decide), bit_high _ _ (by decide), bit_high _ _ (by decide), bit_high _ _ (by decide), bit_high _ _ (by decide), bit_high _ _ (by decide), bit_low _ _ (by decide)]
  rfl

theorem hsdtReg_bit21 (c : Cond) (p u w l s h : Bool) (n d m : RegNum) :
    (encodeHsdtReg c p u w l s h n d m).getLsbD 21 = w := by
  unfold encodeHsdtReg
  rw [bit_high _ _ (by decide), bit_high _ _ (by decide), bit_high _ _ (by decide), bit_high _ _ (by decide), bit_high _ _ (by decide), bit_high _ _ (by decide), bit_high _ _ (by decide), bit_high _ _ (by decide), bit_high _ _ (by decide), bit_low _ _ (by decide)]
  exact bit_ofBool _

theorem hsdtReg_bit20 (c : Cond) (p u w l s h : Bool) (n d m : RegNum) :
    (encodeHsdtReg c p u w l s h n d m).getLsbD 20 = l := by
  unfold encodeHsdtReg
  rw [bit_high _ _ (by decide), bit_high _ _ (by decide), bit_high _ _ (by decide), bit_high _ _ (by decide), bit_high _ _ (by decide), bit_high _ _ (by decide), bit_high _ _ (by decide), bit_high _ _ (by decide), bit_low _ _ (by decide)]
  exact bit_ofBool _

theorem hsdtReg_field16 (c : Cond) (p u w l s h : Bool) (n d m : RegNum) :
    fieldOf (encodeHsdtReg c p u w l s h n d m) 16 4 = n := by
  unfold fieldOf encodeHsdtReg
  rw [extract_high _ _ (by decide), extract_high _ _ (by decide), extract_high _ _ (by decide), extract_high _ _ (by decide), extract_high _ _ (by decide), extract_high _ _ (by decide), extract_high _ _ (by decide), extract_low _ _ (by decide)]
  exact BitVec.extractLsb'_eq_self

theorem hsdtReg_field12 (c : Cond) (p u w l s h : Bool) (n d m : RegNum) :
    fieldOf (encodeHsdtReg c p u w l s h n d m) 12 4 = d := by
  unfold fieldOf encodeHsdtReg
  rw [extract_high _ _ (by decide), extract_high _ _ (by decide), extract_high _ _ (by decide), extract_high _ _ (by decide), extract_high _ _ (by decide), extract_high _ _ (by decide), extract_low _ _ (by decide)]
  exact BitVec.extractLsb'_eq_self

theorem hsdtReg_field8 (c : Cond) (p u w l s h : Bool) (n d m : RegNum) :
    fieldOf (encodeHsdtReg c p u w l s h n d m) 8 4 = 0 := by
  unfold fieldOf encodeHsdtReg
  rw [extract_high _ _ (by decide), extract_high _ _ (by decide), extract_high _ _ (by decide), extract_high _ _ (by decide), extract_high _ _ (by decide), extract_low _ _ (by decide)]
  rfl

theorem hsdtReg_bit7 (c : Cond) (p u w l s h : Bool) (n d m : RegNum) :
    (encodeHsdtReg c p u w l s h n d m).getLsbD 7 = true := by
  unfold encodeHsdtReg
  rw [bit_high _ _ (by decide), bit_high _ _ (by decide), bit_high _ _ (by decide), bit_high _ _ (by decide), bit_low _ _ (by decide)]
  rfl

theorem hsdtReg_bit6 (c : Cond) (p u w l s h : Bool) (n d m : RegNum) :
    (encodeHsdtReg c p u w l s h n d m).getLsbD 6 = s := by
  unfold encodeHsdtReg
  rw [bit_high _ _ (by decide), bit_high _ _ (by decide), bit_high _ _ (by decide), bit_low _ _ (by decide)]
  exact bit_ofBool _

theorem hsdtReg_bit5 (c : Cond) (p u w l s h : Bool) (n d m : RegNum) :
    (encodeHsdtReg c p u w l s h n d m).getLsbD 5 = h := by
  unfold encodeHsdtReg
  rw [bit_high _ _ (by decide), bit_high _ _ (by decide), bit_low _ _ (by decide)]
  exact bit_ofBool _

theorem hsdtReg_bit4 (c : Cond) (p u w l s h : Bool) (n d m : RegNum) :
    (encodeHsdtReg c p u w l s h n d m).getLsbD 4 = true := by
  unfold encodeHsdtReg
  rw [bit_high _ _ (by decide), bit_low _ _ (by decide)]
  rfl

theorem hsdtReg_field0 (c : Cond) (p u w l s h : Bool) (n d m : RegNum) :
    fieldOf (encodeHsdtReg c p u w l s h n d m) 0 4 = m := by
  unfold fieldOf encodeHsdtReg
  rw [extract_low _ _ (by decide)]
  exact BitVec.extractLsb'_eq_self

theorem hsdtReg_field5 (c : Cond) (p u w l s h : Bool) (n d m : RegNum) :
    fieldOf (encodeHsdtReg c p u w l s h n d m) 5 2 = BitVec.ofBool s ++ BitVec.ofBool h := by
  apply BitVec.eq_of_getLsbD_eq
  intro i hi
  have e : i = 0 ∨ i = 1 := by omega
  rw [fieldOf, BitVec.getLsbD_extractLsb', decide_eq_true hi, Bool.true_and]
  rcases e with rfl | rfl
  · rw [hsdtReg_bit5, bit_low _ _ (by decide), bit_ofBool]
  · rw [hsdtReg_bit6, bit_high _ _ (by decide), Nat.sub_self, bit_ofBool]

theorem bdt_field28 (c : Cond) (p u s w l : Bool) (n : RegNum) (list : BitVec 16) :
    fieldOf (encodeBdt c p u s w l n list) 28 4 = c.bits := by
  unfold fieldOf encodeBdt
  rw [extract_high _ _ (by decide), extract_high _ _ (by decide), extract_high _ _ (by decide), extract_high _ _ (by decide), extract_high _ _ (by decide), extract_high _ _ (by decide), extract_high _ _ (by decide), extract_high _ _ (by decide)]
  exact BitVec.extractLsb'_eq_self

theorem bdt_bit27 (c : Cond) (p u s w l : Bool) (n : RegNum) (list : BitVec 16) :
    (encodeBdt c p u s w l n list).getLsbD 27 = true := by
  unfold encodeBdt
  rw [bit_high _ _ (by decide), bit_high _ _ (by decide), bit_high _ _ (by decide), bit_high _ _ (by decide), bit_high _ _ (by decide), bit_high _ _ (by decide), bit_high _ _ (by decide), bit_low _ _ (by decide)]
  rfl

theorem bdt_bit26 (c : Cond) (p u s w l : Bool) (n : RegNum) (list : BitVec 16) :
    (encodeBdt c p u s w l n list).getLsbD 26 = false := by
  unfold encodeBdt
  rw [bit_high _ _ (by decide), bit_high _ _ (by decide), bit_high _ _ (by decide), bit_high _ _ (by decide), bit_high _ _ (by decide), bit_high _ _ (by decide), bit_high _ _ (by decide), bit_low _ _ (by decide)]
  rfl

theorem bdt_bit25 (c : Cond) (p u s w l : Bool) (n : RegNum) (list : BitVec 16) :
    (encodeBdt c p u s w l n list).getLsbD 25 = false := by
  unfold encodeBdt
  rw [bit_high _ _ (by decide), bit_high _ _ (by decide), bit_high _ _ (by decide), bit_high _ _ (by decide), bit_high _ _ (by decide), bit_high _ _ (by decide), bit_high _ _ (by decide), bit_low _ _ (by decide)]
  rfl

theorem bdt_bit24 (c : Cond) (p u s w l : Bool) (n : RegNum) (list : BitVec 16) :
    (encodeBdt c p u s w l n list).getLsbD 24 = p := by
  unfold encodeBdt
  rw [bit_high _ _ (by decide), bit_high _ _ (by decide), bit_high _ _ (by decide), bit_high _ _ (by decide), bit_high _ _ (by decide), bit_high _ _ (by decide), bit_low _ _ (by decide)]
  exact bit_ofBool _

theorem bdt_bit23 (c : Cond) (p u s w l : Bool) (n : RegNum) (list : BitVec 16) :
    (encodeBdt c p u s w l n list).getLsbD 23 = u := by
  unfold encodeBdt
  rw [bit_high _ _ (by decide), bit_high _ _ (by decide), bit_high _ _ (by decide), bit_high _ _ (by decide), bit_high _ _ (by decide), bit_low _ _ (by decide)]
  exact bit_ofBool _

theorem bdt_bit22 (c : Cond) (p u s w l : Bool) (n : RegNum) (list : BitVec 16) :
    (encodeBdt c p u s w l n list).getLsbD 22 = s := by
  unfold encodeBdt
  rw [bit_high _ _ (by decide), bit_high _ _ (by decide), bit_high _ _ (by decide), bit_high _ _ (by decide), bit_low _ _ (by decide)]
  exact bit_ofBool _

theorem bdt_bit21 (c : Cond) (p u s w l : Bool) (n : RegNum) (list : BitVec 16) :
    (encodeBdt c p u s w l n list).getLsbD 21 = w := by
  unfold encodeBdt
  rw [bit_high _ _ (by decide), bit_high _ _ (by decide), bit_high _ _ (by decide), bit_low _ _ (by decide)]
  exact bit_ofBool _

theorem bdt_bit20 (c : Cond) (p u s w l : Bool) (n : RegNum) (list : BitVec 16) :
    (encodeBdt c p u s w l n list).getLsbD 20 = l := by
  unfold encodeBdt
  rw [bit_high _ _ (by decide), bit_high _ _ (by decide), bit_low _ _ (by decide)]
  exact bit_ofBool _

theorem bdt_field16 (c : Cond) (p u s w l : Bool) (n : RegNum) (list : BitVec 16) :
    fieldOf (encodeBdt c p u s w l n list) 16 4 = n := by
  unfold fieldOf encodeBdt
  rw [extract_high _ _ (by decide), extract_low _ _ (by decide)]
  exact BitVec.extractLsb'_eq_self

theorem bdt_bit15 (c : Cond) (p u s w l : Bool) (n : RegNum) (list : BitVec 16) :
    (encodeBdt c p u s w l n list).getLsbD 15 = list.getLsbD 15 := by
  unfold encodeBdt
  rw [bit_low _ _ (by decide)]

theorem bdt_field0 (c : Cond) (p u s w l : Bool) (n : RegNum) (list : BitVec 16) :
    fieldOf (encodeBdt c p u s w l n list) 0 16 = list := by
  unfold fieldOf encodeBdt
  rw [extract_low _ _ (by decide)]
  exact BitVec.extractLsb'_eq_self

theorem swi_field28 (c : Cond) (imm : BitVec 24) :
    fieldOf (encode (.swi c imm)) 28 4 = c.bits := by
  unfold fieldOf encode
  rw [extract_high _ _ (by decide), extract_high _ _ (by decide)]
  exact BitVec.extractLsb'_eq_self

theorem swi_bit27 (c : Cond) (imm : BitVec 24) :
    (encode (.swi c imm)).getLsbD 27 = true := by
  unfold encode
  rw [bit_high _ _ (by decide), bit_low _ _ (by decide)]
  rfl

theorem swi_bit26 (c : Cond) (imm : BitVec 24) :
    (encode (.swi c imm)).getLsbD 26 = true := by
  unfold encode
  rw [bit_high _ _ (by decide), bit_low _ _ (by decide)]
  rfl

theorem swi_bit25 (c : Cond) (imm : BitVec 24) :
    (encode (.swi c imm)).getLsbD 25 = true := by
  unfold encode
  rw [bit_high _ _ (by decide), bit_low _ _ (by decide)]
  rfl

theorem swi_bit24 (c : Cond) (imm : BitVec 24) :
    (encode (.swi c imm)).getLsbD 24 = true := by
  unfold encode
  rw [bit_high _ _ (by decide), bit_low _ _ (by decide)]
  rfl

theorem swi_field0 (c : Cond) (imm : BitVec 24) :
    fieldOf (encode (.swi c imm)) 0 24 = imm := by
  unfold fieldOf encode
  rw [extract_low _ _ (by decide)]
  exact BitVec.extractLsb'_eq_self

theorem swp_field28 (c : Cond) (n d m : RegNum) :
    fieldOf (encode (.swp c n d m)) 28 4 = c.bits := by
  unfold fieldOf encode
  rw [extract_high _ _ (by decide), extract_high _ _ (by decide), extract_high _ _ (by decide), extract_high _ _ (by decide), extract_high _ _ (by decide)]
  exact BitVec.extractLsb'_eq_self

theorem swp_bit27 (c : Cond) (n d m : RegNum) :
    (encode (.swp c n d m)).getLsbD 27 = false := by
  unfold encode
  rw [bit_high _ _ (by decide), bit_high _ _ (by decide), bit_high _ _ (by decide), bit_high _ _ (by decide), bit_low _ _ (by decide)]
  rfl

theorem swp_bit26 (c : Cond) (n d m : RegNum) :
    (encode (.swp c n d m)).getLsbD 26 = false := by
  unfold encode
  rw [bit_high _ _ (by decide), bit_high _ _ (by decide), bit_high _ _ (by decide), bit_high _ _ (by decide), bit_low _ _ (by decide)]
  rfl

theorem swp_bit25 (c : Cond) (n d m : RegNum) :
    (encode (.swp c n d m)).getLsbD 25 = false := by
  unfold encode
  rw [bit_high _ _ (by decide), bit_high _ _ (by decide), bit_high _ _ (by decide), bit_high _ _ (by decide), bit_low _ _ (by decide)]
  rfl

theorem swp_field23 (c : Cond) (n d m : RegNum) :
    fieldOf (encode (.swp c n d m)) 23 2 = 2 := by
  unfold fieldOf encode
  rw [extract_high _ _ (by decide), extract_high _ _ (by decide), extract_high _ _ (by decide), extract_high _ _ (by decide), extract_low _ _ (by decide)]
  rfl

theorem swp_bit22 (c : Cond) (n d m : RegNum) :
    (encode (.swp c n d m)).getLsbD 22 = false := by
  unfold encode
  rw [bit_high _ _ (by decide), bit_high _ _ (by decide), bit_high _ _ (by decide), bit_high _ _ (by decide), bit_low _ _ (by decide)]
  rfl

theorem swp_field20 (c : Cond) (n d m : RegNum) :
    fieldOf (encode (.swp c n d m)) 20 2 = 0 := by
  unfold fieldOf encode
  rw [extract_high _ _ (by decide), extract_high _ _ (by decide), extract_high _ _ (by decide), extract_high _ _ (by decide), extract_low _ _ (by decide)]
  rfl

theorem swp_field16 (c : Cond) (n d m : RegNum) :
    fieldOf (encode (.swp c n d m)) 16 4 = n := by
  unfold fieldOf encode
  rw [extract_high _ _ (by decide), extract_high _ _ (by decide), extract_high _ _ (by decide), extract_low _ _ (by decide)]
  exact BitVec.extractLsb'_eq_self

theorem swp_field12 (c : Cond) (n d m : RegNum) :
    fieldOf (encode (.swp c n d m)) 12 4 = d := by
  unfold fieldOf encode
  rw [extract_high _ _ (by decide), extract_high _ _ (by decide), extract_low _ _ (by decide)]
  exact BitVec.extractLsb'_eq_self

theorem swp_field8 (c : Cond) (n d m : RegNum) :
    fieldOf (encode (.swp c n d m)) 8 4 = 0 := by
  unfold fieldOf encode
  rw [extract_high _ _ (by decide), extract_low _ _ (by decide)]
  rfl

theorem swp_bit7 (c : Cond) (n d m : RegNum) :
    (encode (.swp c n d m)).getLsbD 7 = true := by
  unfold encode
  rw [bit_high _ _ (by decide), bit_low _ _ (by decide)]
  rfl

theorem swp_field5 (c : Cond) (n d m : RegNum) :
    fieldOf (encode (.swp c n d m)) 5 2 = 0 := by
  unfold fieldOf encode
  rw [extract_high _ _ (by decide), extract_low _ _ (by decide)]
  rfl

theorem swp_bit4 (c : Cond) (n d m : RegNum) :
    (encode (.swp c n d m)).getLsbD 4 = true := by
  unfold encode
  rw [bit_high _ _ (by decide), bit_low _ _ (by decide)]
  rfl

theorem swp_field0 (c : Cond) (n d m : RegNum) :
    fieldOf (encode (.swp c n d m)) 0 4 = m := by
  unfold fieldOf encode
  rw [extract_low _ _ (by decide)]
  exact BitVec.extractLsb'_eq_self

theorem swpb_field28 (c : Cond) (n d m : RegNum) :
    fieldOf (encode (.swpb c n d m)) 28 4 = c.bits := by
  unfold fieldOf encode
  rw [extract_high _ _ (by decide), extract_high _ _ (by decide), extract_high _ _ (by decide), extract_high _ _ (by decide), extract_high _ _ (by decide)]
  exact BitVec.extractLsb'_eq_self

theorem swpb_bit27 (c : Cond) (n d m : RegNum) :
    (encode (.swpb c n d m)).getLsbD 27 = false := by
  unfold encode
  rw [bit_high _ _ (by decide), bit_high _ _ (by decide), bit_high _ _ (by decide), bit_high _ _ (by decide), bit_low _ _ (by decide)]
  rfl

theorem swpb_bit26 (c : Cond) (n d m : RegNum) :
    (encode (.swpb c n d m)).getLsbD 26 = false := by
  unfold encode
  rw [bit_high _ _ (by decide), bit_high _ _ (by decide), bit_high _ _ (by decide), bit_high _ _ (by decide), bit_low _ _ (by decide)]
  rfl

theorem swpb_bit25 (c : Cond) (n d m : RegNum) :
    (encode (.swpb c n d m)).getLsbD 25 = false := by
  unfold encode
  rw [bit_high _ _ (by decide), bit_high _ _ (by decide), bit_high _ _ (by decide), bit_high _ _ (by decide), bit_low _ _ (by decide)]
  rfl

theorem swpb_field23 (c : Cond) (n d m : RegNum) :
    fieldOf (encode (.swpb c n d m)) 23 2 = 2 := by
  unfold fieldOf encode
  rw [extract_high _ _ (by decide), extract_high _ _ (by decide), extract_high _ _ (by decide), extract_high _ _ (by decide), extract_low _ _ (by decide)]
  rfl

theorem swpb_bit22 (c : Cond) (n d m : RegNum) :
    (encode (.swpb c n d m)).getLsbD 22 = true := by
  unfold encode
  rw [bit_high _ _ (by decide), bit_high _ _ (by decide), bit_high _ _ (by decide), bit_high _ _ (by decide), bit_low _ _ (by decide)]
  rfl

theorem swpb_field20 (c : Cond) (n d m : RegNum) :
    fieldOf (encode (.swpb c n d m)) 20 2 = 0 := by
  unfold fieldOf encode
  rw [extract_high _ _ (by decide), extract_high _ _ (by decide), extract_high _ _ (by decide), extract_high _ _ (by decide), extract_low _ _ (by decide)]
  rfl

theorem swpb_field16 (c : Cond) (n d m : RegNum) :
    fieldOf (encode (.swpb c n d m)) 16 4 = n := by
  unfold fieldOf encode
  rw [extract_high _ _ (by decide), extract_high _ _ (by decide), extract_high _ _ (by decide), extract_low _ _ (by decide)]
  exact BitVec.extractLsb'_eq_self

theorem swpb_field12 (c : Cond) (n d m : RegNum) :
    fieldOf (encode (.swpb c n d m)) 12 4 = d := by
  unfold fieldOf encode
  rw [extract_high _ _ (by decide), extract_high _ _ (by decide), extract_low _ _ (by decide)]
  exact BitVec.extractLsb'_eq_self

theorem swpb_field8 (c : Cond) (n d m : RegNum) :
    fieldOf (encode (.swpb c n d m)) 8 4 = 0 := by
  unfold fieldOf encode
  rw [extract_high _ _ (by decide), extract_low _ _ (by decide)]
  rfl

theorem swpb_bit7 (c : Cond) (n d m : RegNum) :
    (encode (.swpb c n d m)).getLsbD 7 = true := by
  unfold encode
  rw [bit_high _ _ (by decide), bit_low _ _ (by decide)]
  rfl

theorem swpb_field5 (c : Cond) (n d m : RegNum) :
    fieldOf (encode (.swpb c n d m)) 5 2 = 0 := by
  unfold fieldOf encode
  rw [extract_high _ _ (by decide), extract_low _ _ (by decide)]
  rfl

theorem swpb_bit4 (c : Cond) (n d m : RegNum) :
    (encode (.swpb c n d m)).getLsbD 4 = true := by
  unfold encode
  rw [bit_high _ _ (by decide), bit_low _ _ (by decide)]
  rfl

theorem swpb_field0 (c : Cond) (n d m : RegNum) :
    fieldOf (encode (.swpb c n d m)) 0 4 = m := by
  unfold fieldOf encode
  rw [extract_low _ _ (by decide)]
  exact BitVec.extractLsb'_eq_self

theorem clz_field28 (c : Cond) (d m : RegNum) :
    fieldOf (encode (.clz c d m)) 28 4 = c.bits := by
  unfold fieldOf encode
  rw [extract_high _ _ (by decide), extract_high _ _ (by decide), extract_high _ _ (by decide), extract_high _ _ (by decide)]
  exact BitVec.extractLsb'_eq_self

theorem clz_bit27 (c : Cond) (d m : RegNum) :
    (encode (.clz c d m)).getLsbD 27 = false := by
  unfold encode
  rw [bit_high _ _ (by decide), bit_high _ _ (by decide), bit_high _ _ (by decide), bit_low _ _ (by decide)]
  rfl

theorem clz_bit26 (c : Cond) (d m : RegNum) :
    (encode (.clz c d m)).getLsbD 26 = false := by
  unfold encode
  rw [bit_high _ _ (by decide), bit_high _ _ (by decide), bit_high _ _ (by decide), bit_low _ _ (by decide)]
  rfl

theorem clz_bit25 (c : Cond) (d m : RegNum) :
    (encode (.clz c d m)).getLsbD 25 = false := by
  unfold encode
  rw [bit_high _ _ (by decide), bit_high _ _ (by decide), bit_high _ _ (by decide), bit_low _ _ (by decide)]
  rfl

theorem clz_field16 (c : Cond) (d m : RegNum) :
    fieldOf (encode (.clz c d m)) 16 9 = 367 := by
  unfold fieldOf encode
  rw [extract_high _ _ (by decide), extract_high _ _ (by decide), extract_high _ _ (by decide), extract_low _ _ (by decide)]
  rfl

theorem clz_field12 (c : Cond) (d m : RegNum) :
    fieldOf (encode (.clz c d m)) 12 4 = d := by
  unfold fieldOf encode
  rw [extract_high _ _ (by decide), extract_high _ _ (by decide), extract_low _ _ (by decide)]
  exact BitVec.extractLsb'_eq_self

theorem clz_field4 (c : Cond) (d m : RegNum) :
    fieldOf (encode (.clz c d m)) 4 8 = 241 := by
  unfold fieldOf encode
  rw [extract_high _ _ (by decide), extract_low _ _ (by decide)]
  rfl

theorem clz_bit7 (c : Cond) (d m : RegNum) :
    (encode (.clz c d m)).getLsbD 7 = false := by
  unfold encode
  rw [bit_high _ _ (by decide), bit_low _ _ (by decide)]
  rfl

theorem clz_bit4 (c : Cond) (d m : RegNum) :
    (encode (.clz c d m)).getLsbD 4 = true := by
  unfold encode
  rw [bit_high _ _ (by decide), bit_low _ _ (by decide)]
  rfl

theorem clz_field0 (c : Cond) (d m : RegNum) :
    fieldOf (encode (.clz c d m)) 0 4 = m := by
  unfold fieldOf encode
  rw [extract_low _ _ (by decide)]
  exact BitVec.extractLsb'_eq_self

theorem mrc_field28 (c : Cond) (crn : BitVec 4) (d : RegNum) (op2 : BitVec 3) (crm : BitVec 4) :
    fieldOf (encode (.mrc c crn d op2 crm)) 28 4 = c.bits := by
  unfold fieldOf encode
  rw [extract_high _ _ (by decide), extract_high _ _ (by decide), extract_high _ _ (by decide), extract_high _ _ (by decide), extract_high _ _ (by decide), extract_high _ _ (by decide), extract_high _ _ (by decide)]
  exact BitVec.extractLsb'_eq_self

theorem mrc_bit27 (c : Cond) (crn : BitVec 4) (d : RegNum) (op2 : BitVec 3) (crm : BitVec 4) :
    (encode (.mrc c crn d op2 crm)).getLsbD 27 = true := by
  unfold encode
  rw [bit_high _ _ (by decide), bit_high _ _ (by decide), bit_high _ _ (by decide), bit_high _ _ (by decide), bit_high _ _ (by decide), bit_high _ _ (by decide), bit_low _ _ (by decide)]
  rfl

theorem mrc_bit26 (c : Cond) (crn : BitVec 4) (d : RegNum) (op2 : BitVec 3) (crm : BitVec 4) :
    (encode (.mrc c crn d op2 crm)).getLsbD 26 = true := by
  unfold encode
  rw [bit_high _ _ (by decide), bit_high _ _ (by decide), bit_high _ _ (by decide), bit_high _ _ (by decide), bit_high _ _ (by decide), bit_high _ _ (by decide), bit_low _ _ (by decide)]
  rfl

theorem mrc_bit25 (c : Cond) (crn : BitVec 4) (d : RegNum) (op2 : BitVec 3) (crm : BitVec 4) :
    (encode (.mrc c crn d op2 crm)).getLsbD 25 = true := by
  unfold encode
  rw [bit_high _ _ (by decide), bit_high _ _ (by decide), bit_high _ _ (by decide), bit_high _ _ (by decide), bit_high _ _ (by decide), bit_high _ _ (by decide), bit_low _ _ (by decide)]
  rfl

theorem mrc_bit24 (c : Cond) (crn : BitVec 4) (d : RegNum) (op2 : BitVec 3) (crm : BitVec 4) :
    (encode (.mrc c crn d op2 crm)).getLsbD 24 = false := by
  unfold encode
  rw [bit_high _ _ (by decide), bit_high _ _ (by decide), bit_high _ _ (by decide), bit_high _ _ (by decide), bit_high _ _ (by decide), bit_high _ _ (by decide), bit_low _ _ (by decide)]
  rfl

theorem mrc_field21 (c : Cond) (crn : BitVec 4) (d : RegNum) (op2 : BitVec 3) (crm : BitVec 4) :
    fieldOf (encode (.mrc c crn d op2 crm)) 21 3 = 0 := by
  unfold fieldOf encode
  rw [extract_high _ _ (by decide), extract_high _ _ (by decide), extract_high _ _ (by decide), extract_high _ _ (by decide), extract_high _ _ (by decide), extract_high _ _ (by decide), extract_low _ _ (by decide)]
  rfl

theorem mrc_bit20 (c : Cond) (crn : BitVec 4) (d : RegNum) (op2 : BitVec 3) (crm : BitVec 4) :
    (encode (.mrc c crn d op2 crm)).getLsbD 20 = true := by
  unfold encode
  rw [bit_high _ _ (by decide), bit_high _ _ (by decide), bit_high _ _ (by decide), bit_high _ _ (by decide), bit_high _ _ (by decide), bit_high _ _ (by decide), bit_low _ _ (by decide)]
  rfl

theorem mrc_field16 (c : Cond) (crn : BitVec 4) (d : RegNum) (op2 : BitVec 3) (crm : BitVec 4) :
    fieldOf (encode (.mrc c crn d op2 crm)) 16 4 = crn := by
  unfold fieldOf encode
  rw [extract_high _ _ (by decide), extract_high _ _ (by decide), extract_high _ _ (by decide), extract_high _ _ (by decide), extract_high _ _ (by decide), extract_low _ _ (by decide)]
  exact BitVec.extractLsb'_eq_self

theorem mrc_field12 (c : Cond) (crn : BitVec 4) (d : RegNum) (op2 : BitVec 3) (crm : BitVec 4) :
    fieldOf (encode (.mrc c crn d op2 crm)) 12 4 = d := by
  unfold fieldOf encode
  rw [extract_high _ _ (by decide), extract_high _ _ (by decide), extract_high _ _ (by decide), extract_high _ _ (by decide), extract_low _ _ (by decide)]
  exact BitVec.extractLsb'_eq_self

theorem mrc_field8 (c : Cond) (crn : BitVec 4) (d : RegNum) (op2 : BitVec 3) (crm : BitVec 4) :
    fieldOf (encode (.mrc c crn d op2 crm)) 8 4 = 15 := by
  unfold fieldOf encode
  rw [extract_high _ _ (by decide), extract_high _ _ (by decide), extract_high _ _ (by decide), extract_low _ _ (by decide)]
  rfl

theorem mrc_field5 (c : Cond) (crn : BitVec 4) (d : RegNum) (op2 : BitVec 3) (crm : BitVec 4) :
    fieldOf (encode (.mrc c crn d op2 crm)) 5 3 = op2 := by
  unfold fieldOf encode
  rw [extract_high _ _ (by decide), extract_high _ _ (by decide), extract_low _ _ (by decide)]
  exact BitVec.extractLsb'_eq_self

theorem mrc_bit4 (c : Cond) (crn : BitVec 4) (d : RegNum) (op2 : BitVec 3) (crm : BitVec 4) :
    (encode (.mrc c crn d op2 crm)).getLsbD 4 = true := by
  unfold encode
  rw [bit_high _ _ (by decide), bit_low _ _ (by decide)]
  rfl

theorem mrc_field0 (c : Cond) (crn : BitVec 4) (d : RegNum) (op2 : BitVec 3) (crm : BitVec 4) :
    fieldOf (encode (.mrc c crn d op2 crm)) 0 4 = crm := by
  unfold fieldOf encode
  rw [extract_low _ _ (by decide)]
  exact BitVec.extractLsb'_eq_self

theorem mcr_field28 (c : Cond) (crn : BitVec 4) (d : RegNum) (op2 : BitVec 3) (crm : BitVec 4) :
    fieldOf (encode (.mcr c crn d op2 crm)) 28 4 = c.bits := by
  unfold fieldOf encode
  rw [extract_high _ _ (by decide), extract_high _ _ (by decide), extract_high _ _ (by decide), extract_high _ _ (by decide), extract_high _ _ (by decide), extract_high _ _ (by decide), extract_high _ _ (by decide)]
  exact BitVec.extractLsb'_eq_self

theorem mcr_bit27 (c : Cond) (crn : BitVec 4) (d : RegNum) (op2 : BitVec 3) (crm : BitVec 4) :
    (encode (.mcr c crn d op2 crm)).getLsbD 27 = true := by
  unfold encode
  rw [bit_high _ _ (by decide), bit_high _ _ (by decide), bit_high _ _ (by decide), bit_high _ _ (by decide), bit_high _ _ (by decide), bit_high _ _ (by decide), bit_low _ _ (by decide)]
  rfl

theorem mcr_bit26 (c : Cond) (crn : BitVec 4) (d : RegNum) (op2 : BitVec 3) (crm : BitVec 4) :
    (encode (.mcr c crn d op2 crm)).getLsbD 26 = true := by
  unfold encode
  rw [bit_high _ _ (by decide), bit_high _ _ (by decide), bit_high _ _ (by decide), bit_high _ _ (by decide), bit_high _ _ (by decide), bit_high _ _ (by decide), bit_low _ _ (by decide)]
  rfl

theorem mcr_bit25 (c : Cond) (crn : BitVec 4) (d : RegNum) (op2 : BitVec 3) (crm : BitVec 4) :
    (encode (.mcr c crn d op2 crm)).getLsbD 25 = true := by
  unfold encode
  rw [bit_high _ _ (by decide), bit_high _ _ (by decide), bit_high _ _ (by decide), bit_high _ _ (by decide), bit_high _ _ (by decide), bit_high _ _ (by decide), bit_low _ _ (by decide)]
  rfl

theorem mcr_bit24 (c : Cond) (crn : BitVec 4) (d : RegNum) (op2 : BitVec 3) (crm : BitVec 4) :
    (encode (.mcr c crn d op2 crm)).getLsbD 24 = false := by
  unfold encode
  rw [bit_high _ _ (by decide), bit_high _ _ (by decide), bit_high _ _ (by decide), bit_high _ _ (by decide), bit_high _ _ (by decide), bit_high _ _ (by decide), bit_low _ _ (by decide)]
  rfl

theorem mcr_field21 (c : Cond) (crn : BitVec 4) (d : RegNum) (op2 : BitVec 3) (crm : BitVec 4) :
    fieldOf (encode (.mcr c crn d op2 crm)) 21 3 = 0 := by
  unfold fieldOf encode
  rw [extract_high _ _ (by decide), extract_high _ _ (by decide), extract_high _ _ (by decide), extract_high _ _ (by decide), extract_high _ _ (by decide), extract_high _ _ (by decide), extract_low _ _ (by decide)]
  rfl

theorem mcr_bit20 (c : Cond) (crn : BitVec 4) (d : RegNum) (op2 : BitVec 3) (crm : BitVec 4) :
    (encode (.mcr c crn d op2 crm)).getLsbD 20 = false := by
  unfold encode
  rw [bit_high _ _ (by decide), bit_high _ _ (by decide), bit_high _ _ (by decide), bit_high _ _ (by decide), bit_high _ _ (by decide), bit_high _ _ (by decide), bit_low _ _ (by decide)]
  rfl

theorem mcr_field16 (c : Cond) (crn : BitVec 4) (d : RegNum) (op2 : BitVec 3) (crm : BitVec 4) :
    fieldOf (encode (.mcr c crn d op2 crm)) 16 4 = crn := by
  unfold fieldOf encode
  rw [extract_high _ _ (by decide), extract_high _ _ (by decide), extract_high _ _ (by decide), extract_high _ _ (by decide), extract_high _ _ (by decide), extract_low _ _ (by decide)]
  exact BitVec.extractLsb'_eq_self

theorem mcr_field12 (c : Cond) (crn : BitVec 4) (d : RegNum) (op2 : BitVec 3) (crm : BitVec 4) :
    fieldOf (encode (.mcr c crn d op2 crm)) 12 4 = d := by
  unfold fieldOf encode
  rw [extract_high _ _ (by decide), extract_high _ _ (by decide), extract_high _ _ (by decide), extract_high _ _ (by decide), extract_low _ _ (by decide)]
  exact BitVec.extractLsb'_eq_self

theorem mcr_field8 (c : Cond) (crn : BitVec 4) (d : RegNum) (op2 : BitVec 3) (crm : BitVec 4) :
    fieldOf (encode (.mcr c crn d op2 crm)) 8 4 = 15 := by
  unfold fieldOf encode
  rw [extract_high _ _ (by decide), extract_high _ _ (by decide), extract_high _ _ (by decide), extract_low _ _ (by decide)]
  rfl

theorem mcr_field5 (c : Cond) (crn : BitVec 4) (d : RegNum) (op2 : BitVec 3) (crm : BitVec 4) :
    fieldOf (encode (.mcr c crn d op2 crm)) 5 3 = op2 := by
  unfold fieldOf encode
  rw [extract_high _ _ (by decide), extract_high _ _ (by decide), extract_low _ _ (by decide)]
  exact BitVec.extractLsb'_eq_self

theorem mcr_bit4 (c : Cond) (crn : BitVec 4) (d : RegNum) (op2 : BitVec 3) (crm : BitVec 4) :
    (encode (.mcr c crn d op2 crm)).getLsbD 4 = true := by
  unfold encode
  rw [bit_high _ _ (by decide), bit_low _ _ (by decide)]
  rfl

theorem mcr_field0 (c : Cond) (crn : BitVec 4) (d : RegNum) (op2 : BitVec 3) (crm : BitVec 4) :
    fieldOf (encode (.mcr c crn d op2 crm)) 0 4 = crm := by
  unfold fieldOf encode
  rw [extract_low _ _ (by decide)]
  exact BitVec.extractLsb'_eq_self

/-! ## The masks of the rows -/

theorem sdtImm_pre (c : Cond) (p u b w l : Bool) (n d : RegNum) (imm : BitVec 12) :
    encodeSdtImm c p u b w l n d imm &&& (0#4 ++ 0b111#3 ++ 1#1 ++ 0#1 ++ 1#1 ++ 0#1 ++ 1#1 ++ 0#4 ++ 0#4 ++ 0#12 : Word) =
      0#4 ++ 0b010#3 ++ BitVec.ofBool p ++ 0#1 ++ BitVec.ofBool b ++ 0#1 ++ BitVec.ofBool l ++ 0#4 ++ 0#4 ++ 0#12 :=
  and_fields (and_fields (and_fields (and_fields (and_fields (and_fields (and_fields (and_fields (and_fields BitVec.and_zero rfl) (and_ofBool _)) BitVec.and_zero) (and_ofBool _)) BitVec.and_zero) (and_ofBool _)) BitVec.and_zero) BitVec.and_zero) BitVec.and_zero

theorem sdtImm_post (c : Cond) (p u b w l : Bool) (n d : RegNum) (imm : BitVec 12) :
    encodeSdtImm c p u b w l n d imm &&& (0#4 ++ 0b111#3 ++ 1#1 ++ 0#1 ++ 1#1 ++ 1#1 ++ 1#1 ++ 0#4 ++ 0#4 ++ 0#12 : Word) =
      0#4 ++ 0b010#3 ++ BitVec.ofBool p ++ 0#1 ++ BitVec.ofBool b ++ BitVec.ofBool w ++ BitVec.ofBool l ++ 0#4 ++ 0#4 ++ 0#12 :=
  and_fields (and_fields (and_fields (and_fields (and_fields (and_fields (and_fields (and_fields (and_fields BitVec.and_zero rfl) (and_ofBool _)) BitVec.and_zero) (and_ofBool _)) (and_ofBool _)) (and_ofBool _)) BitVec.and_zero) BitVec.and_zero) BitVec.and_zero

theorem sdtReg_pre (c : Cond) (p u b w l : Bool) (n d : RegNum) (amt : BitVec 5) (sh : ShiftKind) (m : RegNum) :
    encodeSdtReg c p u b w l n d amt sh m &&& (0#4 ++ 0b111#3 ++ 1#1 ++ 0#1 ++ 1#1 ++ 0#1 ++ 1#1 ++ 0#4 ++ 0#4 ++ 0#5 ++ 0#2 ++ 0b1#1 ++ 0#4 : Word) =
      0#4 ++ 0b011#3 ++ BitVec.ofBool p ++ 0#1 ++ BitVec.ofBool b ++ 0#1 ++ BitVec.ofBool l ++ 0#4 ++ 0#4 ++ 0#5 ++ 0#2 ++ 0#1 ++ 0#4 :=
  and_fields (and_fields (and_fields (and_fields (and_fields (and_fields (and_fields (and_fields (and_fields (and_fields (and_fields (and_fields BitVec.and_zero rfl) (and_ofBool _)) BitVec.and_zero) (and_ofBool _)) BitVec.and_zero) (and_ofBool _)) BitVec.and_zero) BitVec.and_zero) BitVec.and_zero) BitVec.and_zero) rfl) BitVec.and_zero

theorem sdtReg_post (c : Cond) (p u b w l : Bool) (n d : RegNum) (amt : BitVec 5) (sh : ShiftKind) (m : RegNum) :
    encodeSdtReg c p u b w l n d amt sh m &&& (0#4 ++ 0b111#3 ++ 1#1 ++ 0#1 ++ 1#1 ++ 1#1 ++ 1#1 ++ 0#4 ++ 0#4 ++ 0#5 ++ 0#2 ++ 0b1#1 ++ 0#4 : Word) =
      0#4 ++ 0b011#3 ++ BitVec.ofBool p ++ 0#1 ++ BitVec.ofBool b ++ BitVec.ofBool w ++ BitVec.ofBool l ++ 0#4 ++ 0#4 ++ 0#5 ++ 0#2 ++ 0#1 ++ 0#4 :=
  and_fields (and_fields (and_fields (and_fields (and_fields (and_fields (and_fields (and_fields (and_fields (and_fields (and_fields (and_fields BitVec.and_zero rfl) (and_ofBool _)) BitVec.and_zero) (and_ofBool _)) (and_ofBool _)) (and_ofBool _)) BitVec.and_zero) BitVec.and_zero) BitVec.and_zero) BitVec.and_zero) rfl) BitVec.and_zero

theorem hsdtImm_pre (c : Cond) (p u w l s h : Bool) (n d : RegNum) (imm : BitVec 8) :
    encodeHsdtImm c p u w l s h n d imm &&& (0#4 ++ 0b111#3 ++ 1#1 ++ 0#1 ++ 0b1#1 ++ 0#1 ++ 1#1 ++ 0#4 ++ 0#4 ++ 0#4 ++ 0b1#1 ++ 1#1 ++ 1#1 ++ 0b1#1 ++ 0#4 : Word) =
      0#4 ++ 0b000#3 ++ BitVec.ofBool p ++ 0#1 ++ 1#1 ++ 0#1 ++ BitVec.ofBool l ++ 0#4 ++ 0#4 ++ 0#4 ++ 1#1 ++ BitVec.ofBool s ++ BitVec.ofBool h ++ 1#1 ++ 0#4 :=
  and_fields (and_fields (and_fields (and_fields (and_fields (and_fields (and_fields (and_fields (and_fields (and_fields (and_fields (and_fields (and_fields (and_fields BitVec.and_zero rfl) (and_ofBool _)) BitVec.and_zero) rfl) BitVec.and_zero) (and_ofBool _)) BitVec.and_zero) BitVec.and_zero) BitVec.and_zero) rfl) (and_ofBool _)) (and_ofBool _)) rfl) BitVec.and_zero

theorem hsdtImm_post (c : Cond) (p u w l s h : Bool) (n d : RegNum) (imm : BitVec 8) :
    encodeHsdtImm c p u w l s h n d imm &&& (0#4 ++ 0b111#3 ++ 1#1 ++ 0#1 ++ 0b1#1 ++ 1#1 ++ 1#1 ++ 0#4 ++ 0#4 ++ 0#4 ++ 0b1#1 ++ 1#1 ++ 1#1 ++ 0b1#1 ++ 0#4 : Word) =
      0#4 ++ 0b000#3 ++ BitVec.ofBool p ++ 0#1 ++ 1#1 ++ BitVec.ofBool w ++ BitVec.ofBool l ++ 0#4 ++ 0#4 ++ 0#4 ++ 1#1 ++ BitVec.ofBool s ++ BitVec.ofBool h ++ 1#1 ++ 0#4 :=
  and_fields (and_fields (and_fields (and_fields (and_fields (and_fields (and_fields (and_fields (and_fields (and_fields (and_fields (and_fields (and_fields (and_fields BitVec.and_zero rfl) (and_ofBool _)) BitVec.and_zero) rfl) (and_ofBool _)) (and_ofBool _)) BitVec.and_zero) BitVec.and_zero) BitVec.and_zero) rfl) (and_ofBool _)) (and_ofBool _)) rfl) BitVec.and_zero

theorem hsdtReg_pre (c : Cond) (p u w l s h : Bool) (n d m : RegNum) :
    encodeHsdtReg c p u w l s h n d m &&& (0#4 ++ 0b111#3 ++ 1#1 ++ 0#1 ++ 0b1#1 ++ 0#1 ++ 1#1 ++ 0#4 ++ 0#4 ++ 0b1111#4 ++ 0b1#1 ++ 1#1 ++ 1#1 ++ 0b1#1 ++ 0#4 : Word) =
      0#4 ++ 0b000#3 ++ BitVec.ofBool p ++ 0#1 ++ 0#1 ++ 0#1 ++ BitVec.ofBool l ++ 0#4 ++ 0#4 ++ 0b0000#4 ++ 1#1 ++ BitVec.ofBool s ++ BitVec.ofBool h ++ 1#1 ++ 0#4 :=
  and_fields (and_fields (and_fields (and_fields (and_fields (and_fields (and_fields (and_fields (and_fields (and_fields (and_fields (and_fields (and_fields (and_fields BitVec.and_zero rfl) (and_ofBool _)) BitVec.and_zero) rfl) BitVec.and_zero) (and_ofBool _)) BitVec.and_zero) BitVec.and_zero) rfl) rfl) (and_ofBool _)) (and_ofBool _)) rfl) BitVec.and_zero

theorem hsdtReg_post (c : Cond) (p u w l s h : Bool) (n d m : RegNum) :
    encodeHsdtReg c p u w l s h n d m &&& (0#4 ++ 0b111#3 ++ 1#1 ++ 0#1 ++ 0b1#1 ++ 1#1 ++ 1#1 ++ 0#4 ++ 0#4 ++ 0b1111#4 ++ 0b1#1 ++ 1#1 ++ 1#1 ++ 0b1#1 ++ 0#4 : Word) =
      0#4 ++ 0b000#3 ++ BitVec.ofBool p ++ 0#1 ++ 0#1 ++ BitVec.ofBool w ++ BitVec.ofBool l ++ 0#4 ++ 0#4 ++ 0b0000#4 ++ 1#1 ++ BitVec.ofBool s ++ BitVec.ofBool h ++ 1#1 ++ 0#4 :=
  and_fields (and_fields (and_fields (and_fields (and_fields (and_fields (and_fields (and_fields (and_fields (and_fields (and_fields (and_fields (and_fields (and_fields BitVec.and_zero rfl) (and_ofBool _)) BitVec.and_zero) rfl) (and_ofBool _)) (and_ofBool _)) BitVec.and_zero) BitVec.and_zero) rfl) rfl) (and_ofBool _)) (and_ofBool _)) rfl) BitVec.and_zero

theorem bdt_plain (c : Cond) (p u s w l : Bool) (n : RegNum) (list : BitVec 16) :
    encodeBdt c p u s w l n list &&& (0#4 ++ 0b111#3 ++ 1#1 ++ 1#1 ++ 1#1 ++ 0#1 ++ 1#1 ++ 0#4 ++ 0#16 : Word) =
      0#4 ++ 0b100#3 ++ BitVec.ofBool p ++ BitVec.ofBool u ++ BitVec.ofBool s ++ 0#1 ++ BitVec.ofBool l ++ 0#4 ++ 0#16 :=
  and_fields (and_fields (and_fields (and_fields (and_fields (and_fields (and_fields (and_fields BitVec.and_zero rfl) (and_ofBool _)) (and_ofBool _)) (and_ofBool _)) BitVec.and_zero) (and_ofBool _)) BitVec.and_zero) BitVec.and_zero

theorem bdt_ret (c : Cond) (p u s w l : Bool) (n : RegNum) (list : BitVec 16) :
    encodeBdt c p u s w l n list &&& (0#4 ++ 0b111#3 ++ 1#1 ++ 1#1 ++ 1#1 ++ 0#1 ++ 1#1 ++ 0#4 ++ 0x8000#16 : Word) =
      0#4 ++ 0b100#3 ++ BitVec.ofBool p ++ BitVec.ofBool u ++ BitVec.ofBool s ++ 0#1 ++ BitVec.ofBool l ++ 0#4 ++ (BitVec.ofBool (list.getLsbD 15) ++ 0#15) :=
  and_fields (and_fields (and_fields (and_fields (and_fields (and_fields (and_fields (and_fields BitVec.and_zero rfl) (and_ofBool _)) (and_ofBool _)) (and_ofBool _)) BitVec.and_zero) (and_ofBool _)) BitVec.and_zero) (list_and_bit15 list)

theorem bdt_usr (c : Cond) (p u s w l : Bool) (n : RegNum) (list : BitVec 16) :
    encodeBdt c p u s w l n list &&& (0#4 ++ 0b111#3 ++ 1#1 ++ 1#1 ++ 1#1 ++ 1#1 ++ 1#1 ++ 0#4 ++ 0x8000#16 : Word) =
      0#4 ++ 0b100#3 ++ BitVec.ofBool p ++ BitVec.ofBool u ++ BitVec.ofBool s ++ BitVec.ofBool w ++ BitVec.ofBool l ++ 0#4 ++ (BitVec.ofBool (list.getLsbD 15) ++ 0#15) :=
  and_fields (and_fields (and_fields (and_fields (and_fields (and_fields (and_fields (and_fields BitVec.and_zero rfl) (and_ofBool _)) (and_ofBool _)) (and_ofBool _)) (and_ofBool _)) (and_ofBool _)) BitVec.and_zero) (list_and_bit15 list)

end Sys2Proof
end

