-- ==== Sys2Proof/Laws/State.lean ====
section
/-! SUPPORT. What each named update does to each field of the state. -/

namespace Sys2Proof.Machine

@[simp] theorem State.setPc_gpr (s : State) (v : Word) :
    (s.setPc v).gpr = s.gpr := rfl
@[simp] theorem State.setPc_pc (s : State) (v : Word) :
    (s.setPc v).pc = v := rfl
@[simp] theorem State.setPc_cpsr (s : State) (v : Word) :
    (s.setPc v).cpsr = s.cpsr := rfl
@[simp] theorem State.setPc_spsrSvc (s : State) (v : Word) :
    (s.setPc v).spsrSvc = s.spsrSvc := rfl
@[simp] theorem State.setPc_spsrAbt (s : State) (v : Word) :
    (s.setPc v).spsrAbt = s.spsrAbt := rfl
@[simp] theorem State.setPc_spsrUnd (s : State) (v : Word) :
    (s.setPc v).spsrUnd = s.spsrUnd := rfl
@[simp] theorem State.setPc_spsrIrq (s : State) (v : Word) :
    (s.setPc v).spsrIrq = s.spsrIrq := rfl
@[simp] theorem State.setPc_spsrFiq (s : State) (v : Word) :
    (s.setPc v).spsrFiq = s.spsrFiq := rfl
@[simp] theorem State.setPc_cp15c1 (s : State) (v : Word) :
    (s.setPc v).cp15c1 = s.cp15c1 := rfl
@[simp] theorem State.setPc_mem (s : State) (v : Word) :
    (s.setPc v).mem = s.mem := rfl
@[simp] theorem State.setPc_written (s : State) (v : Word) :
    (s.setPc v).written = s.written := rfl
@[simp] theorem State.setPc_abortInfo (s : State) (v : Word) :
    (s.setPc v).abortInfo = s.abortInfo := rfl
@[simp] theorem State.setPc_bankHazard (s : State) (v : Word) :
    (s.setPc v).bankHazard = s.bankHazard := rfl
@[simp] theorem State.setPc_denials (s : State) (v : Word) :
    (s.setPc v).denials = s.denials := rfl
@[simp] theorem State.setPc_lines (s : State) (v : Word) :
    (s.setPc v).lines = s.lines := rfl
@[simp] theorem State.setPc_params (s : State) (v : Word) :
    (s.setPc v).params = s.params := rfl
@[simp] theorem State.setPc_draws (s : State) (v : Word) :
    (s.setPc v).draws = s.draws := rfl
@[simp] theorem State.setCpsr_gpr (s : State) (v : Word) :
    (s.setCpsr v).gpr = s.gpr := rfl
@[simp] theorem State.setCpsr_pc (s : State) (v : Word) :
    (s.setCpsr v).pc = s.pc := rfl
@[simp] theorem State.setCpsr_cpsr (s : State) (v : Word) :
    (s.setCpsr v).cpsr = v := rfl
@[simp] theorem State.setCpsr_spsrSvc (s : State) (v : Word) :
    (s.setCpsr v).spsrSvc = s.spsrSvc := rfl
@[simp] theorem State.setCpsr_spsrAbt (s : State) (v : Word) :
    (s.setCpsr v).spsrAbt = s.spsrAbt := rfl
@[simp] theorem State.setCpsr_spsrUnd (s : State) (v : Word) :
    (s.setCpsr v).spsrUnd = s.spsrUnd := rfl
@[simp] theorem State.setCpsr_spsrIrq (s : State) (v : Word) :
    (s.setCpsr v).spsrIrq = s.spsrIrq := rfl
@[simp] theorem State.setCpsr_spsrFiq (s : State) (v : Word) :
    (s.setCpsr v).spsrFiq = s.spsrFiq := rfl
@[simp] theorem State.setCpsr_cp15c1 (s : State) (v : Word) :
    (s.setCpsr v).cp15c1 = s.cp15c1 := rfl
@[simp] theorem State.setCpsr_mem (s : State) (v : Word) :
    (s.setCpsr v).mem = s.mem := rfl
@[simp] theorem State.setCpsr_written (s : State) (v : Word) :
    (s.setCpsr v).written = s.written := rfl
@[simp] theorem State.setCpsr_abortInfo (s : State) (v : Word) :
    (s.setCpsr v).abortInfo = s.abortInfo := rfl
@[simp] theorem State.setCpsr_bankHazard (s : State) (v : Word) :
    (s.setCpsr v).bankHazard = s.bankHazard := rfl
@[simp] theorem State.setCpsr_denials (s : State) (v : Word) :
    (s.setCpsr v).denials = s.denials := rfl
@[simp] theorem State.setCpsr_lines (s : State) (v : Word) :
    (s.setCpsr v).lines = s.lines := rfl
@[simp] theorem State.setCpsr_params (s : State) (v : Word) :
    (s.setCpsr v).params = s.params := rfl
@[simp] theorem State.setCpsr_draws (s : State) (v : Word) :
    (s.setCpsr v).draws = s.draws := rfl
@[simp] theorem State.setCp15c1_gpr (s : State) (v : Word) :
    (s.setCp15c1 v).gpr = s.gpr := rfl
@[simp] theorem State.setCp15c1_pc (s : State) (v : Word) :
    (s.setCp15c1 v).pc = s.pc := rfl
@[simp] theorem State.setCp15c1_cpsr (s : State) (v : Word) :
    (s.setCp15c1 v).cpsr = s.cpsr := rfl
@[simp] theorem State.setCp15c1_spsrSvc (s : State) (v : Word) :
    (s.setCp15c1 v).spsrSvc = s.spsrSvc := rfl
@[simp] theorem State.setCp15c1_spsrAbt (s : State) (v : Word) :
    (s.setCp15c1 v).spsrAbt = s.spsrAbt := rfl
@[simp] theorem State.setCp15c1_spsrUnd (s : State) (v : Word) :
    (s.setCp15c1 v).spsrUnd = s.spsrUnd := rfl
@[simp] theorem State.setCp15c1_spsrIrq (s : State) (v : Word) :
    (s.setCp15c1 v).spsrIrq = s.spsrIrq := rfl
@[simp] theorem State.setCp15c1_spsrFiq (s : State) (v : Word) :
    (s.setCp15c1 v).spsrFiq = s.spsrFiq := rfl
@[simp] theorem State.setCp15c1_cp15c1 (s : State) (v : Word) :
    (s.setCp15c1 v).cp15c1 = v := rfl
@[simp] theorem State.setCp15c1_mem (s : State) (v : Word) :
    (s.setCp15c1 v).mem = s.mem := rfl
@[simp] theorem State.setCp15c1_written (s : State) (v : Word) :
    (s.setCp15c1 v).written = s.written := rfl
@[simp] theorem State.setCp15c1_abortInfo (s : State) (v : Word) :
    (s.setCp15c1 v).abortInfo = s.abortInfo := rfl
@[simp] theorem State.setCp15c1_bankHazard (s : State) (v : Word) :
    (s.setCp15c1 v).bankHazard = s.bankHazard := rfl
@[simp] theorem State.setCp15c1_denials (s : State) (v : Word) :
    (s.setCp15c1 v).denials = s.denials := rfl
@[simp] theorem State.setCp15c1_lines (s : State) (v : Word) :
    (s.setCp15c1 v).lines = s.lines := rfl
@[simp] theorem State.setCp15c1_params (s : State) (v : Word) :
    (s.setCp15c1 v).params = s.params := rfl
@[simp] theorem State.setCp15c1_draws (s : State) (v : Word) :
    (s.setCp15c1 v).draws = s.draws := rfl
@[simp] theorem State.setHazard_gpr (s : State) (b : Bool) :
    (s.setHazard b).gpr = s.gpr := rfl
@[simp] theorem State.setHazard_pc (s : State) (b : Bool) :
    (s.setHazard b).pc = s.pc := rfl
@[simp] theorem State.setHazard_cpsr (s : State) (b : Bool) :
    (s.setHazard b).cpsr = s.cpsr := rfl
@[simp] theorem State.setHazard_spsrSvc (s : State) (b : Bool) :
    (s.setHazard b).spsrSvc = s.spsrSvc := rfl
@[simp] theorem State.setHazard_spsrAbt (s : State) (b : Bool) :
    (s.setHazard b).spsrAbt = s.spsrAbt := rfl
@[simp] theorem State.setHazard_spsrUnd (s : State) (b : Bool) :
    (s.setHazard b).spsrUnd = s.spsrUnd := rfl
@[simp] theorem State.setHazard_spsrIrq (s : State) (b : Bool) :
    (s.setHazard b).spsrIrq = s.spsrIrq := rfl
@[simp] theorem State.setHazard_spsrFiq (s : State) (b : Bool) :
    (s.setHazard b).spsrFiq = s.spsrFiq := rfl
@[simp] theorem State.setHazard_cp15c1 (s : State) (b : Bool) :
    (s.setHazard b).cp15c1 = s.cp15c1 := rfl
@[simp] theorem State.setHazard_mem (s : State) (b : Bool) :
    (s.setHazard b).mem = s.mem := rfl
@[simp] theorem State.setHazard_written (s : State) (b : Bool) :
    (s.setHazard b).written = s.written := rfl
@[simp] theorem State.setHazard_abortInfo (s : State) (b : Bool) :
    (s.setHazard b).abortInfo = s.abortInfo := rfl
@[simp] theorem State.setHazard_bankHazard (s : State) (b : Bool) :
    (s.setHazard b).bankHazard = b := rfl
@[simp] theorem State.setHazard_denials (s : State) (b : Bool) :
    (s.setHazard b).denials = s.denials := rfl
@[simp] theorem State.setHazard_lines (s : State) (b : Bool) :
    (s.setHazard b).lines = s.lines := rfl
@[simp] theorem State.setHazard_params (s : State) (b : Bool) :
    (s.setHazard b).params = s.params := rfl
@[simp] theorem State.setHazard_draws (s : State) (b : Bool) :
    (s.setHazard b).draws = s.draws := rfl
@[simp] theorem State.setAbort_gpr (s : State) (i : AbortInfo) :
    (s.setAbort i).gpr = s.gpr := rfl
@[simp] theorem State.setAbort_pc (s : State) (i : AbortInfo) :
    (s.setAbort i).pc = s.pc := rfl
@[simp] theorem State.setAbort_cpsr (s : State) (i : AbortInfo) :
    (s.setAbort i).cpsr = s.cpsr := rfl
@[simp] theorem State.setAbort_spsrSvc (s : State) (i : AbortInfo) :
    (s.setAbort i).spsrSvc = s.spsrSvc := rfl
@[simp] theorem State.setAbort_spsrAbt (s : State) (i : AbortInfo) :
    (s.setAbort i).spsrAbt = s.spsrAbt := rfl
@[simp] theorem State.setAbort_spsrUnd (s : State) (i : AbortInfo) :
    (s.setAbort i).spsrUnd = s.spsrUnd := rfl
@[simp] theorem State.setAbort_spsrIrq (s : State) (i : AbortInfo) :
    (s.setAbort i).spsrIrq = s.spsrIrq := rfl
@[simp] theorem State.setAbort_spsrFiq (s : State) (i : AbortInfo) :
    (s.setAbort i).spsrFiq = s.spsrFiq := rfl
@[simp] theorem State.setAbort_cp15c1 (s : State) (i : AbortInfo) :
    (s.setAbort i).cp15c1 = s.cp15c1 := rfl
@[simp] theorem State.setAbort_mem (s : State) (i : AbortInfo) :
    (s.setAbort i).mem = s.mem := rfl
@[simp] theorem State.setAbort_written (s : State) (i : AbortInfo) :
    (s.setAbort i).written = s.written := rfl
@[simp] theorem State.setAbort_abortInfo (s : State) (i : AbortInfo) :
    (s.setAbort i).abortInfo = some i := rfl
@[simp] theorem State.setAbort_bankHazard (s : State) (i : AbortInfo) :
    (s.setAbort i).bankHazard = s.bankHazard := rfl
@[simp] theorem State.setAbort_denials (s : State) (i : AbortInfo) :
    (s.setAbort i).denials = s.denials := rfl
@[simp] theorem State.setAbort_lines (s : State) (i : AbortInfo) :
    (s.setAbort i).lines = s.lines := rfl
@[simp] theorem State.setAbort_params (s : State) (i : AbortInfo) :
    (s.setAbort i).params = s.params := rfl
@[simp] theorem State.setAbort_draws (s : State) (i : AbortInfo) :
    (s.setAbort i).draws = s.draws := rfl
@[simp] theorem State.setDraws_gpr (s : State) (n : Nat) :
    (s.setDraws n).gpr = s.gpr := rfl
@[simp] theorem State.setDraws_pc (s : State) (n : Nat) :
    (s.setDraws n).pc = s.pc := rfl
@[simp] theorem State.setDraws_cpsr (s : State) (n : Nat) :
    (s.setDraws n).cpsr = s.cpsr := rfl
@[simp] theorem State.setDraws_spsrSvc (s : State) (n : Nat) :
    (s.setDraws n).spsrSvc = s.spsrSvc := rfl
@[simp] theorem State.setDraws_spsrAbt (s : State) (n : Nat) :
    (s.setDraws n).spsrAbt = s.spsrAbt := rfl
@[simp] theorem State.setDraws_spsrUnd (s : State) (n : Nat) :
    (s.setDraws n).spsrUnd = s.spsrUnd := rfl
@[simp] theorem State.setDraws_spsrIrq (s : State) (n : Nat) :
    (s.setDraws n).spsrIrq = s.spsrIrq := rfl
@[simp] theorem State.setDraws_spsrFiq (s : State) (n : Nat) :
    (s.setDraws n).spsrFiq = s.spsrFiq := rfl
@[simp] theorem State.setDraws_cp15c1 (s : State) (n : Nat) :
    (s.setDraws n).cp15c1 = s.cp15c1 := rfl
@[simp] theorem State.setDraws_mem (s : State) (n : Nat) :
    (s.setDraws n).mem = s.mem := rfl
@[simp] theorem State.setDraws_written (s : State) (n : Nat) :
    (s.setDraws n).written = s.written := rfl
@[simp] theorem State.setDraws_abortInfo (s : State) (n : Nat) :
    (s.setDraws n).abortInfo = s.abortInfo := rfl
@[simp] theorem State.setDraws_bankHazard (s : State) (n : Nat) :
    (s.setDraws n).bankHazard = s.bankHazard := rfl
@[simp] theorem State.setDraws_denials (s : State) (n : Nat) :
    (s.setDraws n).denials = s.denials := rfl
@[simp] theorem State.setDraws_lines (s : State) (n : Nat) :
    (s.setDraws n).lines = s.lines := rfl
@[simp] theorem State.setDraws_params (s : State) (n : Nat) :
    (s.setDraws n).params = s.params := rfl
@[simp] theorem State.setDraws_draws (s : State) (n : Nat) :
    (s.setDraws n).draws = n := rfl
@[simp] theorem State.setPhys_gpr (s : State) (p : PhysReg) (v : Word) :
    (s.setPhys p v).gpr = s.gpr.set p.idx v := rfl
@[simp] theorem State.setPhys_pc (s : State) (p : PhysReg) (v : Word) :
    (s.setPhys p v).pc = s.pc := rfl
@[simp] theorem State.setPhys_cpsr (s : State) (p : PhysReg) (v : Word) :
    (s.setPhys p v).cpsr = s.cpsr := rfl
@[simp] theorem State.setPhys_spsrSvc (s : State) (p : PhysReg) (v : Word) :
    (s.setPhys p v).spsrSvc = s.spsrSvc := rfl
@[simp] theorem State.setPhys_spsrAbt (s : State) (p : PhysReg) (v : Word) :
    (s.setPhys p v).spsrAbt = s.spsrAbt := rfl
@[simp] theorem State.setPhys_spsrUnd (s : State) (p : PhysReg) (v : Word) :
    (s.setPhys p v).spsrUnd = s.spsrUnd := rfl
@[simp] theorem State.setPhys_spsrIrq (s : State) (p : PhysReg) (v : Word) :
    (s.setPhys p v).spsrIrq = s.spsrIrq := rfl
@[simp] theorem State.setPhys_spsrFiq (s : State) (p : PhysReg) (v : Word) :
    (s.setPhys p v).spsrFiq = s.spsrFiq := rfl
@[simp] theorem State.setPhys_cp15c1 (s : State) (p : PhysReg) (v : Word) :
    (s.setPhys p v).cp15c1 = s.cp15c1 := rfl
@[simp] theorem State.setPhys_mem (s : State) (p : PhysReg) (v : Word) :
    (s.setPhys p v).mem = s.mem := rfl
@[simp] theorem State.setPhys_written (s : State) (p : PhysReg) (v : Word) :
    (s.setPhys p v).written = s.written := rfl
@[simp] theorem State.setPhys_abortInfo (s : State) (p : PhysReg) (v : Word) :
    (s.setPhys p v).abortInfo = s.abortInfo := rfl
@[simp] theorem State.setPhys_bankHazard (s : State) (p : PhysReg) (v : Word) :
    (s.setPhys p v).bankHazard = s.bankHazard := rfl
@[simp] theorem State.setPhys_denials (s : State) (p : PhysReg) (v : Word) :
    (s.setPhys p v).denials = s.denials := rfl
@[simp] theorem State.setPhys_lines (s : State) (p : PhysReg) (v : Word) :
    (s.setPhys p v).lines = s.lines := rfl
@[simp] theorem State.setPhys_params (s : State) (p : PhysReg) (v : Word) :
    (s.setPhys p v).params = s.params := rfl
@[simp] theorem State.setPhys_draws (s : State) (p : PhysReg) (v : Word) :
    (s.setPhys p v).draws = s.draws := rfl
@[simp] theorem State.storeByte_gpr (s : State) (a : Word) (b : Byte) :
    (s.storeByte a b).gpr = s.gpr := rfl
@[simp] theorem State.storeByte_pc (s : State) (a : Word) (b : Byte) :
    (s.storeByte a b).pc = s.pc := rfl
@[simp] theorem State.storeByte_cpsr (s : State) (a : Word) (b : Byte) :
    (s.storeByte a b).cpsr = s.cpsr := rfl
@[simp] theorem State.storeByte_spsrSvc (s : State) (a : Word) (b : Byte) :
    (s.storeByte a b).spsrSvc = s.spsrSvc := rfl
@[simp] theorem State.storeByte_spsrAbt (s : State) (a : Word) (b : Byte) :
    (s.storeByte a b).spsrAbt = s.spsrAbt := rfl
@[simp] theorem State.storeByte_spsrUnd (s : State) (a : Word) (b : Byte) :
    (s.storeByte a b).spsrUnd = s.spsrUnd := rfl
@[simp] theorem State.storeByte_spsrIrq (s : State) (a : Word) (b : Byte) :
    (s.storeByte a b).spsrIrq = s.spsrIrq := rfl
@[simp] theorem State.storeByte_spsrFiq (s : State) (a : Word) (b : Byte) :
    (s.storeByte a b).spsrFiq = s.spsrFiq := rfl
@[simp] theorem State.storeByte_cp15c1 (s : State) (a : Word) (b : Byte) :
    (s.storeByte a b).cp15c1 = s.cp15c1 := rfl
@[simp] theorem State.storeByte_mem (s : State) (a : Word) (b : Byte) :
    (s.storeByte a b).mem = Memory.write s.mem a.toNat b := rfl
@[simp] theorem State.storeByte_written (s : State) (a : Word) (b : Byte) :
    (s.storeByte a b).written = insertAddr a.toNat s.written := rfl
@[simp] theorem State.storeByte_abortInfo (s : State) (a : Word) (b : Byte) :
    (s.storeByte a b).abortInfo = s.abortInfo := rfl
@[simp] theorem State.storeByte_bankHazard (s : State) (a : Word) (b : Byte) :
    (s.storeByte a b).bankHazard = s.bankHazard := rfl
@[simp] theorem State.storeByte_denials (s : State) (a : Word) (b : Byte) :
    (s.storeByte a b).denials = s.denials := rfl
@[simp] theorem State.storeByte_lines (s : State) (a : Word) (b : Byte) :
    (s.storeByte a b).lines = s.lines := rfl
@[simp] theorem State.storeByte_params (s : State) (a : Word) (b : Byte) :
    (s.storeByte a b).params = s.params := rfl
@[simp] theorem State.storeByte_draws (s : State) (a : Word) (b : Byte) :
    (s.storeByte a b).draws = s.draws := rfl
@[simp] theorem State.nextLines_gpr (s : State) :
    (s.nextLines).gpr = s.gpr := rfl
@[simp] theorem State.nextLines_pc (s : State) :
    (s.nextLines).pc = s.pc := rfl
@[simp] theorem State.nextLines_cpsr (s : State) :
    (s.nextLines).cpsr = s.cpsr := rfl
@[simp] theorem State.nextLines_spsrSvc (s : State) :
    (s.nextLines).spsrSvc = s.spsrSvc := rfl
@[simp] theorem State.nextLines_spsrAbt (s : State) :
    (s.nextLines).spsrAbt = s.spsrAbt := rfl
@[simp] theorem State.nextLines_spsrUnd (s : State) :
    (s.nextLines).spsrUnd = s.spsrUnd := rfl
@[simp] theorem State.nextLines_spsrIrq (s : State) :
    (s.nextLines).spsrIrq = s.spsrIrq := rfl
@[simp] theorem State.nextLines_spsrFiq (s : State) :
    (s.nextLines).spsrFiq = s.spsrFiq := rfl
@[simp] theorem State.nextLines_cp15c1 (s : State) :
    (s.nextLines).cp15c1 = s.cp15c1 := rfl
@[simp] theorem State.nextLines_mem (s : State) :
    (s.nextLines).mem = s.mem := rfl
@[simp] theorem State.nextLines_written (s : State) :
    (s.nextLines).written = s.written := rfl
@[simp] theorem State.nextLines_abortInfo (s : State) :
    (s.nextLines).abortInfo = s.abortInfo := rfl
@[simp] theorem State.nextLines_bankHazard (s : State) :
    (s.nextLines).bankHazard = s.bankHazard := rfl
@[simp] theorem State.nextLines_denials (s : State) :
    (s.nextLines).denials = s.denials := rfl
@[simp] theorem State.nextLines_lines (s : State) :
    (s.nextLines).lines = s.lines.tail := rfl
@[simp] theorem State.nextLines_params (s : State) :
    (s.nextLines).params = s.params := rfl
@[simp] theorem State.nextLines_draws (s : State) :
    (s.nextLines).draws = s.draws := rfl
@[simp] theorem State.setSpsr_gpr (s : State) (m : Mode) (v : Word) :
    (s.setSpsr m v).gpr = s.gpr := by cases m <;> rfl
@[simp] theorem State.setSpsr_pc (s : State) (m : Mode) (v : Word) :
    (s.setSpsr m v).pc = s.pc := by cases m <;> rfl
@[simp] theorem State.setSpsr_cpsr (s : State) (m : Mode) (v : Word) :
    (s.setSpsr m v).cpsr = s.cpsr := by cases m <;> rfl
@[simp] theorem State.setSpsr_cp15c1 (s : State) (m : Mode) (v : Word) :
    (s.setSpsr m v).cp15c1 = s.cp15c1 := by cases m <;> rfl
@[simp] theorem State.setSpsr_mem (s : State) (m : Mode) (v : Word) :
    (s.setSpsr m v).mem = s.mem := by cases m <;> rfl
@[simp] theorem State.setSpsr_written (s : State) (m : Mode) (v : Word) :
    (s.setSpsr m v).written = s.written := by cases m <;> rfl
@[simp] theorem State.setSpsr_abortInfo (s : State) (m : Mode) (v : Word) :
    (s.setSpsr m v).abortInfo = s.abortInfo := by cases m <;> rfl
@[simp] theorem State.setSpsr_bankHazard (s : State) (m : Mode) (v : Word) :
    (s.setSpsr m v).bankHazard = s.bankHazard := by cases m <;> rfl
@[simp] theorem State.setSpsr_denials (s : State) (m : Mode) (v : Word) :
    (s.setSpsr m v).denials = s.denials := by cases m <;> rfl
@[simp] theorem State.setSpsr_lines (s : State) (m : Mode) (v : Word) :
    (s.setSpsr m v).lines = s.lines := by cases m <;> rfl
@[simp] theorem State.setSpsr_params (s : State) (m : Mode) (v : Word) :
    (s.setSpsr m v).params = s.params := by cases m <;> rfl
@[simp] theorem State.setSpsr_draws (s : State) (m : Mode) (v : Word) :
    (s.setSpsr m v).draws = s.draws := by cases m <;> rfl

/-- The SPSR of a mode after a write of that mode's. -/
@[simp] theorem State.spsr?_setSpsr_self (s : State) (m : Mode) (v : Word)
    (h : (s.spsr? m).isSome) : (s.setSpsr m v).spsr? m = some v := by cases m <;> simp_all [spsr?, setSpsr]

/-- The SPSR of a mode after a write of another mode's. -/
theorem State.spsr?_setSpsr_ne (s : State) (m k : Mode) (v : Word) (h : k ≠ m) :
    (s.setSpsr m v).spsr? k = s.spsr? k := by cases m <;> cases k <;> simp_all [spsr?, setSpsr]

@[simp] theorem State.writeReg_pc (s : State) (m : Mode) (i : RegNum) (v : Word) :
    (s.writeReg m i v).pc = s.pc := by unfold writeReg; split <;> rfl
@[simp] theorem State.writeReg_cpsr (s : State) (m : Mode) (i : RegNum) (v : Word) :
    (s.writeReg m i v).cpsr = s.cpsr := by unfold writeReg; split <;> rfl
@[simp] theorem State.writeReg_spsrSvc (s : State) (m : Mode) (i : RegNum) (v : Word) :
    (s.writeReg m i v).spsrSvc = s.spsrSvc := by unfold writeReg; split <;> rfl
@[simp] theorem State.writeReg_spsrAbt (s : State) (m : Mode) (i : RegNum) (v : Word) :
    (s.writeReg m i v).spsrAbt = s.spsrAbt := by unfold writeReg; split <;> rfl
@[simp] theorem State.writeReg_spsrUnd (s : State) (m : Mode) (i : RegNum) (v : Word) :
    (s.writeReg m i v).spsrUnd = s.spsrUnd := by unfold writeReg; split <;> rfl
@[simp] theorem State.writeReg_spsrIrq (s : State) (m : Mode) (i : RegNum) (v : Word) :
    (s.writeReg m i v).spsrIrq = s.spsrIrq := by unfold writeReg; split <;> rfl
@[simp] theorem State.writeReg_spsrFiq (s : State) (m : Mode) (i : RegNum) (v : Word) :
    (s.writeReg m i v).spsrFiq = s.spsrFiq := by unfold writeReg; split <;> rfl
@[simp] theorem State.writeReg_cp15c1 (s : State) (m : Mode) (i : RegNum) (v : Word) :
    (s.writeReg m i v).cp15c1 = s.cp15c1 := by unfold writeReg; split <;> rfl
@[simp] theorem State.writeReg_mem (s : State) (m : Mode) (i : RegNum) (v : Word) :
    (s.writeReg m i v).mem = s.mem := by unfold writeReg; split <;> rfl
@[simp] theorem State.writeReg_written (s : State) (m : Mode) (i : RegNum) (v : Word) :
    (s.writeReg m i v).written = s.written := by unfold writeReg; split <;> rfl
@[simp] theorem State.writeReg_abortInfo (s : State) (m : Mode) (i : RegNum) (v : Word) :
    (s.writeReg m i v).abortInfo = s.abortInfo := by unfold writeReg; split <;> rfl
@[simp] theorem State.writeReg_bankHazard (s : State) (m : Mode) (i : RegNum) (v : Word) :
    (s.writeReg m i v).bankHazard = s.bankHazard := by unfold writeReg; split <;> rfl
@[simp] theorem State.writeReg_denials (s : State) (m : Mode) (i : RegNum) (v : Word) :
    (s.writeReg m i v).denials = s.denials := by unfold writeReg; split <;> rfl
@[simp] theorem State.writeReg_lines (s : State) (m : Mode) (i : RegNum) (v : Word) :
    (s.writeReg m i v).lines = s.lines := by unfold writeReg; split <;> rfl
@[simp] theorem State.writeReg_params (s : State) (m : Mode) (i : RegNum) (v : Word) :
    (s.writeReg m i v).params = s.params := by unfold writeReg; split <;> rfl
@[simp] theorem State.writeReg_draws (s : State) (m : Mode) (i : RegNum) (v : Word) :
    (s.writeReg m i v).draws = s.draws := by unfold writeReg; split <;> rfl
@[simp] theorem State.writeRegs_pc (s : State) (m : Mode) (l : List (RegNum × Word)) :
    (s.writeRegs m l).pc = s.pc := by
  induction l generalizing s with
  | nil => rfl
  | cons x l ih => simp [writeRegs, ih]
@[simp] theorem State.writeRegs_cpsr (s : State) (m : Mode) (l : List (RegNum × Word)) :
    (s.writeRegs m l).cpsr = s.cpsr := by
  induction l generalizing s with
  | nil => rfl
  | cons x l ih => simp [writeRegs, ih]
@[simp] theorem State.writeRegs_spsrSvc (s : State) (m : Mode) (l : List (RegNum × Word)) :
    (s.writeRegs m l).spsrSvc = s.spsrSvc := by
  induction l generalizing s with
  | nil => rfl
  | cons x l ih => simp [writeRegs, ih]
@[simp] theorem State.writeRegs_spsrAbt (s : State) (m : Mode) (l : List (RegNum × Word)) :
    (s.writeRegs m l).spsrAbt = s.spsrAbt := by
  induction l generalizing s with
  | nil => rfl
  | cons x l ih => simp [writeRegs, ih]
@[simp] theorem State.writeRegs_spsrUnd (s : State) (m : Mode) (l : List (RegNum × Word)) :
    (s.writeRegs m l).spsrUnd = s.spsrUnd := by
  induction l generalizing s with
  | nil => rfl
  | cons x l ih => simp [writeRegs, ih]
@[simp] theorem State.writeRegs_spsrIrq (s : State) (m : Mode) (l : List (RegNum × Word)) :
    (s.writeRegs m l).spsrIrq = s.spsrIrq := by
  induction l generalizing s with
  | nil => rfl
  | cons x l ih => simp [writeRegs, ih]
@[simp] theorem State.writeRegs_spsrFiq (s : State) (m : Mode) (l : List (RegNum × Word)) :
    (s.writeRegs m l).spsrFiq = s.spsrFiq := by
  induction l generalizing s with
  | nil => rfl
  | cons x l ih => simp [writeRegs, ih]
@[simp] theorem State.writeRegs_cp15c1 (s : State) (m : Mode) (l : List (RegNum × Word)) :
    (s.writeRegs m l).cp15c1 = s.cp15c1 := by
  induction l generalizing s with
  | nil => rfl
  | cons x l ih => simp [writeRegs, ih]
@[simp] theorem State.writeRegs_mem (s : State) (m : Mode) (l : List (RegNum × Word)) :
    (s.writeRegs m l).mem = s.mem := by
  induction l generalizing s with
  | nil => rfl
  | cons x l ih => simp [writeRegs, ih]
@[simp] theorem State.writeRegs_written (s : State) (m : Mode) (l : List (RegNum × Word)) :
    (s.writeRegs m l).written = s.written := by
  induction l generalizing s with
  | nil => rfl
  | cons x l ih => simp [writeRegs, ih]
@[simp] theorem State.writeRegs_abortInfo (s : State) (m : Mode) (l : List (RegNum × Word)) :
    (s.writeRegs m l).abortInfo = s.abortInfo := by
  induction l generalizing s with
  | nil => rfl
  | cons x l ih => simp [writeRegs, ih]
@[simp] theorem State.writeRegs_bankHazard (s : State) (m : Mode) (l : List (RegNum × Word)) :
    (s.writeRegs m l).bankHazard = s.bankHazard := by
  induction l generalizing s with
  | nil => rfl
  | cons x l ih => simp [writeRegs, ih]
@[simp] theorem State.writeRegs_denials (s : State) (m : Mode) (l : List (RegNum × Word)) :
    (s.writeRegs m l).denials = s.denials := by
  induction l generalizing s with
  | nil => rfl
  | cons x l ih => simp [writeRegs, ih]
@[simp] theorem State.writeRegs_lines (s : State) (m : Mode) (l : List (RegNum × Word)) :
    (s.writeRegs m l).lines = s.lines := by
  induction l generalizing s with
  | nil => rfl
  | cons x l ih => simp [writeRegs, ih]
@[simp] theorem State.writeRegs_params (s : State) (m : Mode) (l : List (RegNum × Word)) :
    (s.writeRegs m l).params = s.params := by
  induction l generalizing s with
  | nil => rfl
  | cons x l ih => simp [writeRegs, ih]
@[simp] theorem State.writeRegs_draws (s : State) (m : Mode) (l : List (RegNum × Word)) :
    (s.writeRegs m l).draws = s.draws := by
  induction l generalizing s with
  | nil => rfl
  | cons x l ih => simp [writeRegs, ih]
@[simp] theorem State.store_gpr (s : State) (a : Word) (w : Width) (v : Word) :
    (s.store a w v).gpr = s.gpr := by cases w <;> rfl
@[simp] theorem State.store_pc (s : State) (a : Word) (w : Width) (v : Word) :
    (s.store a w v).pc = s.pc := by cases w <;> rfl
@[simp] theorem State.store_cpsr (s : State) (a : Word) (w : Width) (v : Word) :
    (s.store a w v).cpsr = s.cpsr := by cases w <;> rfl
@[simp] theorem State.store_spsrSvc (s : State) (a : Word) (w : Width) (v : Word) :
    (s.store a w v).spsrSvc = s.spsrSvc := by cases w <;> rfl
@[simp] theorem State.store_spsrAbt (s : State) (a : Word) (w : Width) (v : Word) :
    (s.store a w v).spsrAbt = s.spsrAbt := by cases w <;> rfl
@[simp] theorem State.store_spsrUnd (s : State) (a : Word) (w : Width) (v : Word) :
    (s.store a w v).spsrUnd = s.spsrUnd := by cases w <;> rfl
@[simp] theorem State.store_spsrIrq (s : State) (a : Word) (w : Width) (v : Word) :
    (s.store a w v).spsrIrq = s.spsrIrq := by cases w <;> rfl
@[simp] theorem State.store_spsrFiq (s : State) (a : Word) (w : Width) (v : Word) :
    (s.store a w v).spsrFiq = s.spsrFiq := by cases w <;> rfl
@[simp] theorem State.store_cp15c1 (s : State) (a : Word) (w : Width) (v : Word) :
    (s.store a w v).cp15c1 = s.cp15c1 := by cases w <;> rfl
@[simp] theorem State.store_abortInfo (s : State) (a : Word) (w : Width) (v : Word) :
    (s.store a w v).abortInfo = s.abortInfo := by cases w <;> rfl
@[simp] theorem State.store_bankHazard (s : State) (a : Word) (w : Width) (v : Word) :
    (s.store a w v).bankHazard = s.bankHazard := by cases w <;> rfl
@[simp] theorem State.store_denials (s : State) (a : Word) (w : Width) (v : Word) :
    (s.store a w v).denials = s.denials := by cases w <;> rfl
@[simp] theorem State.store_lines (s : State) (a : Word) (w : Width) (v : Word) :
    (s.store a w v).lines = s.lines := by cases w <;> rfl
@[simp] theorem State.store_params (s : State) (a : Word) (w : Width) (v : Word) :
    (s.store a w v).params = s.params := by cases w <;> rfl
@[simp] theorem State.store_draws (s : State) (a : Word) (w : Width) (v : Word) :
    (s.store a w v).draws = s.draws := by cases w <;> rfl
@[simp] theorem State.drawRegs_pc (s : State) (l : List PhysReg) :
    (s.drawRegs l).pc = s.pc := by
  induction l generalizing s with
  | nil => rfl
  | cons p l ih => simp [drawRegs, ih]
@[simp] theorem State.drawRegs_cpsr (s : State) (l : List PhysReg) :
    (s.drawRegs l).cpsr = s.cpsr := by
  induction l generalizing s with
  | nil => rfl
  | cons p l ih => simp [drawRegs, ih]
@[simp] theorem State.drawRegs_spsrSvc (s : State) (l : List PhysReg) :
    (s.drawRegs l).spsrSvc = s.spsrSvc := by
  induction l generalizing s with
  | nil => rfl
  | cons p l ih => simp [drawRegs, ih]
@[simp] theorem State.drawRegs_spsrAbt (s : State) (l : List PhysReg) :
    (s.drawRegs l).spsrAbt = s.spsrAbt := by
  induction l generalizing s with
  | nil => rfl
  | cons p l ih => simp [drawRegs, ih]
@[simp] theorem State.drawRegs_spsrUnd (s : State) (l : List PhysReg) :
    (s.drawRegs l).spsrUnd = s.spsrUnd := by
  induction l generalizing s with
  | nil => rfl
  | cons p l ih => simp [drawRegs, ih]
@[simp] theorem State.drawRegs_spsrIrq (s : State) (l : List PhysReg) :
    (s.drawRegs l).spsrIrq = s.spsrIrq := by
  induction l generalizing s with
  | nil => rfl
  | cons p l ih => simp [drawRegs, ih]
@[simp] theorem State.drawRegs_spsrFiq (s : State) (l : List PhysReg) :
    (s.drawRegs l).spsrFiq = s.spsrFiq := by
  induction l generalizing s with
  | nil => rfl
  | cons p l ih => simp [drawRegs, ih]
@[simp] theorem State.drawRegs_cp15c1 (s : State) (l : List PhysReg) :
    (s.drawRegs l).cp15c1 = s.cp15c1 := by
  induction l generalizing s with
  | nil => rfl
  | cons p l ih => simp [drawRegs, ih]
@[simp] theorem State.drawRegs_mem (s : State) (l : List PhysReg) :
    (s.drawRegs l).mem = s.mem := by
  induction l generalizing s with
  | nil => rfl
  | cons p l ih => simp [drawRegs, ih]
@[simp] theorem State.drawRegs_written (s : State) (l : List PhysReg) :
    (s.drawRegs l).written = s.written := by
  induction l generalizing s with
  | nil => rfl
  | cons p l ih => simp [drawRegs, ih]
@[simp] theorem State.drawRegs_abortInfo (s : State) (l : List PhysReg) :
    (s.drawRegs l).abortInfo = s.abortInfo := by
  induction l generalizing s with
  | nil => rfl
  | cons p l ih => simp [drawRegs, ih]
@[simp] theorem State.drawRegs_bankHazard (s : State) (l : List PhysReg) :
    (s.drawRegs l).bankHazard = s.bankHazard := by
  induction l generalizing s with
  | nil => rfl
  | cons p l ih => simp [drawRegs, ih]
@[simp] theorem State.drawRegs_denials (s : State) (l : List PhysReg) :
    (s.drawRegs l).denials = s.denials := by
  induction l generalizing s with
  | nil => rfl
  | cons p l ih => simp [drawRegs, ih]
@[simp] theorem State.drawRegs_lines (s : State) (l : List PhysReg) :
    (s.drawRegs l).lines = s.lines := by
  induction l generalizing s with
  | nil => rfl
  | cons p l ih => simp [drawRegs, ih]
@[simp] theorem State.drawRegs_params (s : State) (l : List PhysReg) :
    (s.drawRegs l).params = s.params := by
  induction l generalizing s with
  | nil => rfl
  | cons p l ih => simp [drawRegs, ih]
@[simp] theorem State.drawWords_gpr (s : State) (a : Word) (l : List Word) :
    (s.drawWords a l).gpr = s.gpr := by
  induction l generalizing s a with
  | nil => rfl
  | cons v l ih => rw [drawWords, ih]; split <;> simp
@[simp] theorem State.drawWords_pc (s : State) (a : Word) (l : List Word) :
    (s.drawWords a l).pc = s.pc := by
  induction l generalizing s a with
  | nil => rfl
  | cons v l ih => rw [drawWords, ih]; split <;> simp
@[simp] theorem State.drawWords_cpsr (s : State) (a : Word) (l : List Word) :
    (s.drawWords a l).cpsr = s.cpsr := by
  induction l generalizing s a with
  | nil => rfl
  | cons v l ih => rw [drawWords, ih]; split <;> simp
@[simp] theorem State.drawWords_spsrSvc (s : State) (a : Word) (l : List Word) :
    (s.drawWords a l).spsrSvc = s.spsrSvc := by
  induction l generalizing s a with
  | nil => rfl
  | cons v l ih => rw [drawWords, ih]; split <;> simp
@[simp] theorem State.drawWords_spsrAbt (s : State) (a : Word) (l : List Word) :
    (s.drawWords a l).spsrAbt = s.spsrAbt := by
  induction l generalizing s a with
  | nil => rfl
  | cons v l ih => rw [drawWords, ih]; split <;> simp
@[simp] theorem State.drawWords_spsrUnd (s : State) (a : Word) (l : List Word) :
    (s.drawWords a l).spsrUnd = s.spsrUnd := by
  induction l generalizing s a with
  | nil => rfl
  | cons v l ih => rw [drawWords, ih]; split <;> simp
@[simp] theorem State.drawWords_spsrIrq (s : State) (a : Word) (l : List Word) :
    (s.drawWords a l).spsrIrq = s.spsrIrq := by
  induction l generalizing s a with
  | nil => rfl
  | cons v l ih => rw [drawWords, ih]; split <;> simp
@[simp] theorem State.drawWords_spsrFiq (s : State) (a : Word) (l : List Word) :
    (s.drawWords a l).spsrFiq = s.spsrFiq := by
  induction l generalizing s a with
  | nil => rfl
  | cons v l ih => rw [drawWords, ih]; split <;> simp
@[simp] theorem State.drawWords_cp15c1 (s : State) (a : Word) (l : List Word) :
    (s.drawWords a l).cp15c1 = s.cp15c1 := by
  induction l generalizing s a with
  | nil => rfl
  | cons v l ih => rw [drawWords, ih]; split <;> simp
@[simp] theorem State.drawWords_abortInfo (s : State) (a : Word) (l : List Word) :
    (s.drawWords a l).abortInfo = s.abortInfo := by
  induction l generalizing s a with
  | nil => rfl
  | cons v l ih => rw [drawWords, ih]; split <;> simp
@[simp] theorem State.drawWords_bankHazard (s : State) (a : Word) (l : List Word) :
    (s.drawWords a l).bankHazard = s.bankHazard := by
  induction l generalizing s a with
  | nil => rfl
  | cons v l ih => rw [drawWords, ih]; split <;> simp
@[simp] theorem State.drawWords_denials (s : State) (a : Word) (l : List Word) :
    (s.drawWords a l).denials = s.denials := by
  induction l generalizing s a with
  | nil => rfl
  | cons v l ih => rw [drawWords, ih]; split <;> simp
@[simp] theorem State.drawWords_lines (s : State) (a : Word) (l : List Word) :
    (s.drawWords a l).lines = s.lines := by
  induction l generalizing s a with
  | nil => rfl
  | cons v l ih => rw [drawWords, ih]; split <;> simp
@[simp] theorem State.drawWords_params (s : State) (a : Word) (l : List Word) :
    (s.drawWords a l).params = s.params := by
  induction l generalizing s a with
  | nil => rfl
  | cons v l ih => rw [drawWords, ih]; split <;> simp
@[simp] theorem State.writeBack_pc (s : State) (m : Mode) (o : MemOperand) (v : Word) :
    (s.writeBack m o v).pc = s.pc := by unfold writeBack; split <;> simp
@[simp] theorem State.writeBack_cpsr (s : State) (m : Mode) (o : MemOperand) (v : Word) :
    (s.writeBack m o v).cpsr = s.cpsr := by unfold writeBack; split <;> simp
@[simp] theorem State.writeBack_spsrSvc (s : State) (m : Mode) (o : MemOperand) (v : Word) :
    (s.writeBack m o v).spsrSvc = s.spsrSvc := by unfold writeBack; split <;> simp
@[simp] theorem State.writeBack_spsrAbt (s : State) (m : Mode) (o : MemOperand) (v : Word) :
    (s.writeBack m o v).spsrAbt = s.spsrAbt := by unfold writeBack; split <;> simp
@[simp] theorem State.writeBack_spsrUnd (s : State) (m : Mode) (o : MemOperand) (v : Word) :
    (s.writeBack m o v).spsrUnd = s.spsrUnd := by unfold writeBack; split <;> simp
@[simp] theorem State.writeBack_spsrIrq (s : State) (m : Mode) (o : MemOperand) (v : Word) :
    (s.writeBack m o v).spsrIrq = s.spsrIrq := by unfold writeBack; split <;> simp
@[simp] theorem State.writeBack_spsrFiq (s : State) (m : Mode) (o : MemOperand) (v : Word) :
    (s.writeBack m o v).spsrFiq = s.spsrFiq := by unfold writeBack; split <;> simp
@[simp] theorem State.writeBack_cp15c1 (s : State) (m : Mode) (o : MemOperand) (v : Word) :
    (s.writeBack m o v).cp15c1 = s.cp15c1 := by unfold writeBack; split <;> simp
@[simp] theorem State.writeBack_mem (s : State) (m : Mode) (o : MemOperand) (v : Word) :
    (s.writeBack m o v).mem = s.mem := by unfold writeBack; split <;> simp
@[simp] theorem State.writeBack_written (s : State) (m : Mode) (o : MemOperand) (v : Word) :
    (s.writeBack m o v).written = s.written := by unfold writeBack; split <;> simp
@[simp] theorem State.writeBack_abortInfo (s : State) (m : Mode) (o : MemOperand) (v : Word) :
    (s.writeBack m o v).abortInfo = s.abortInfo := by unfold writeBack; split <;> simp
@[simp] theorem State.writeBack_bankHazard (s : State) (m : Mode) (o : MemOperand) (v : Word) :
    (s.writeBack m o v).bankHazard = s.bankHazard := by unfold writeBack; split <;> simp
@[simp] theorem State.writeBack_denials (s : State) (m : Mode) (o : MemOperand) (v : Word) :
    (s.writeBack m o v).denials = s.denials := by unfold writeBack; split <;> simp
@[simp] theorem State.writeBack_lines (s : State) (m : Mode) (o : MemOperand) (v : Word) :
    (s.writeBack m o v).lines = s.lines := by unfold writeBack; split <;> simp
@[simp] theorem State.writeBack_params (s : State) (m : Mode) (o : MemOperand) (v : Word) :
    (s.writeBack m o v).params = s.params := by unfold writeBack; split <;> simp
@[simp] theorem State.writeBack_draws (s : State) (m : Mode) (o : MemOperand) (v : Word) :
    (s.writeBack m o v).draws = s.draws := by unfold writeBack; split <;> simp

/-! Exception entry, field by field (spec 60_exceptions.md R223). -/

@[simp] theorem State.enterException_gpr (s : State) (e : Exception) (r : Word) :
    (s.enterException e r).gpr = s.gpr.set e.mode.lr.idx r := by simp [enterException]
@[simp] theorem State.enterException_pc (s : State) (e : Exception) (r : Word) :
    (s.enterException e r).pc = Config.vectorBase + e.vector := by simp [enterException]
@[simp] theorem State.enterException_cpsr (s : State) (e : Exception) (r : Word) :
    (s.enterException e r).cpsr = e.entryCpsr s.cpsr := by simp [enterException]
@[simp] theorem State.enterException_cp15c1 (s : State) (e : Exception) (r : Word) :
    (s.enterException e r).cp15c1 = s.cp15c1 := by simp [enterException]
@[simp] theorem State.enterException_mem (s : State) (e : Exception) (r : Word) :
    (s.enterException e r).mem = s.mem := by simp [enterException]
@[simp] theorem State.enterException_written (s : State) (e : Exception) (r : Word) :
    (s.enterException e r).written = s.written := by simp [enterException]
@[simp] theorem State.enterException_abortInfo (s : State) (e : Exception) (r : Word) :
    (s.enterException e r).abortInfo = s.abortInfo := by simp [enterException]
@[simp] theorem State.enterException_bankHazard (s : State) (e : Exception) (r : Word) :
    (s.enterException e r).bankHazard = s.bankHazard := by simp [enterException]
@[simp] theorem State.enterException_denials (s : State) (e : Exception) (r : Word) :
    (s.enterException e r).denials = s.denials := by simp [enterException]
@[simp] theorem State.enterException_lines (s : State) (e : Exception) (r : Word) :
    (s.enterException e r).lines = s.lines := by simp [enterException]
@[simp] theorem State.enterException_params (s : State) (e : Exception) (r : Word) :
    (s.enterException e r).params = s.params := by simp [enterException]
@[simp] theorem State.enterException_draws (s : State) (e : Exception) (r : Word) :
    (s.enterException e r).draws = s.draws := by simp [enterException]
@[simp] theorem State.enterDataAbort_gpr (s : State) (i : AbortInfo) :
    (s.enterDataAbort i).gpr = s.gpr.set PhysReg.r14_abt.idx (s.pc + 8) := by simp [enterDataAbort, Exception.mode, Mode.lr]
@[simp] theorem State.enterDataAbort_pc (s : State) (i : AbortInfo) :
    (s.enterDataAbort i).pc = Config.vectorBase + Exception.dataAbort.vector := by simp [enterDataAbort]
@[simp] theorem State.enterDataAbort_cpsr (s : State) (i : AbortInfo) :
    (s.enterDataAbort i).cpsr = Exception.dataAbort.entryCpsr s.cpsr := by simp [enterDataAbort]
@[simp] theorem State.enterDataAbort_cp15c1 (s : State) (i : AbortInfo) :
    (s.enterDataAbort i).cp15c1 = s.cp15c1 := by simp [enterDataAbort]
@[simp] theorem State.enterDataAbort_mem (s : State) (i : AbortInfo) :
    (s.enterDataAbort i).mem = s.mem := by simp [enterDataAbort]
@[simp] theorem State.enterDataAbort_written (s : State) (i : AbortInfo) :
    (s.enterDataAbort i).written = s.written := by simp [enterDataAbort]
@[simp] theorem State.enterDataAbort_abortInfo (s : State) (i : AbortInfo) :
    (s.enterDataAbort i).abortInfo = some i := by simp [enterDataAbort]
@[simp] theorem State.enterDataAbort_bankHazard (s : State) (i : AbortInfo) :
    (s.enterDataAbort i).bankHazard = s.bankHazard := by simp [enterDataAbort]
@[simp] theorem State.enterDataAbort_denials (s : State) (i : AbortInfo) :
    (s.enterDataAbort i).denials = s.denials := by simp [enterDataAbort]
@[simp] theorem State.enterDataAbort_lines (s : State) (i : AbortInfo) :
    (s.enterDataAbort i).lines = s.lines := by simp [enterDataAbort]
@[simp] theorem State.enterDataAbort_params (s : State) (i : AbortInfo) :
    (s.enterDataAbort i).params = s.params := by simp [enterDataAbort]
@[simp] theorem State.enterDataAbort_draws (s : State) (i : AbortInfo) :
    (s.enterDataAbort i).draws = s.draws := by simp [enterDataAbort]

/-- The SPSR of the mode entered is the old CPSR, the others stay (R223). -/
theorem State.enterException_spsr? (s : State) (e : Exception) (r : Word) (k : Mode) :
    (s.enterException e r).spsr? k = if k = e.mode then some s.cpsr else s.spsr? k := by
  cases e <;> cases k <;> rfl

/-! The content of a physical register and the SPSRs under updates of other fields. -/

@[simp] theorem State.setPc_getPhys (s : State) (v : Word) (q : PhysReg) :
    (s.setPc v).getPhys q = s.getPhys q := rfl
@[simp] theorem State.setPc_spsr? (s : State) (v : Word) (k : Mode) :
    (s.setPc v).spsr? k = s.spsr? k := by cases k <;> rfl
@[simp] theorem State.setCpsr_getPhys (s : State) (v : Word) (q : PhysReg) :
    (s.setCpsr v).getPhys q = s.getPhys q := rfl
@[simp] theorem State.setCpsr_spsr? (s : State) (v : Word) (k : Mode) :
    (s.setCpsr v).spsr? k = s.spsr? k := by cases k <;> rfl
@[simp] theorem State.setCp15c1_getPhys (s : State) (v : Word) (q : PhysReg) :
    (s.setCp15c1 v).getPhys q = s.getPhys q := rfl
@[simp] theorem State.setCp15c1_spsr? (s : State) (v : Word) (k : Mode) :
    (s.setCp15c1 v).spsr? k = s.spsr? k := by cases k <;> rfl
@[simp] theorem State.setHazard_getPhys (s : State) (b : Bool) (q : PhysReg) :
    (s.setHazard b).getPhys q = s.getPhys q := rfl
@[simp] theorem State.setHazard_spsr? (s : State) (b : Bool) (k : Mode) :
    (s.setHazard b).spsr? k = s.spsr? k := by cases k <;> rfl
@[simp] theorem State.setAbort_getPhys (s : State) (i : AbortInfo) (q : PhysReg) :
    (s.setAbort i).getPhys q = s.getPhys q := rfl
@[simp] theorem State.setAbort_spsr? (s : State) (i : AbortInfo) (k : Mode) :
    (s.setAbort i).spsr? k = s.spsr? k := by cases k <;> rfl
@[simp] theorem State.setDraws_getPhys (s : State) (n : Nat) (q : PhysReg) :
    (s.setDraws n).getPhys q = s.getPhys q := rfl
@[simp] theorem State.setDraws_spsr? (s : State) (n : Nat) (k : Mode) :
    (s.setDraws n).spsr? k = s.spsr? k := by cases k <;> rfl
@[simp] theorem State.storeByte_getPhys (s : State) (a : Word) (b : Byte) (q : PhysReg) :
    (s.storeByte a b).getPhys q = s.getPhys q := rfl
@[simp] theorem State.storeByte_spsr? (s : State) (a : Word) (b : Byte) (k : Mode) :
    (s.storeByte a b).spsr? k = s.spsr? k := by cases k <;> rfl
@[simp] theorem State.nextLines_getPhys (s : State) (q : PhysReg) :
    (s.nextLines).getPhys q = s.getPhys q := rfl
@[simp] theorem State.nextLines_spsr? (s : State) (k : Mode) :
    (s.nextLines).spsr? k = s.spsr? k := by cases k <;> rfl
@[simp] theorem State.setPhys_spsr? (s : State) (p : PhysReg) (v : Word) (k : Mode) :
    (s.setPhys p v).spsr? k = s.spsr? k := by cases k <;> rfl
@[simp] theorem State.setSpsr_getPhys (s : State) (m : Mode) (v : Word) (q : PhysReg) :
    (s.setSpsr m v).getPhys q = s.getPhys q := by cases m <;> rfl
@[simp] theorem State.store_getPhys (s : State) (a : Word) (w : Width) (v : Word) (q : PhysReg) :
    (s.store a w v).getPhys q = s.getPhys q := by cases w <;> rfl
@[simp] theorem State.drawWords_getPhys (s : State) (a : Word) (l : List Word) (q : PhysReg) :
    (s.drawWords a l).getPhys q = s.getPhys q := by simp [getPhys]
@[simp] theorem State.writeReg_spsr? (s : State) (m : Mode) (i : RegNum) (v : Word) (k : Mode) :
    (s.writeReg m i v).spsr? k = s.spsr? k := by cases k <;> simp [spsr?]
@[simp] theorem State.writeRegs_spsr? (s : State) (m : Mode) (l : List (RegNum × Word)) (k : Mode) :
    (s.writeRegs m l).spsr? k = s.spsr? k := by cases k <;> simp [spsr?]
@[simp] theorem State.store_spsr? (s : State) (a : Word) (w : Width) (v : Word) (k : Mode) :
    (s.store a w v).spsr? k = s.spsr? k := by cases k <;> simp [spsr?]
@[simp] theorem State.drawRegs_spsr? (s : State) (l : List PhysReg) (k : Mode) :
    (s.drawRegs l).spsr? k = s.spsr? k := by cases k <;> simp [spsr?]
@[simp] theorem State.drawWords_spsr? (s : State) (a : Word) (l : List Word) (k : Mode) :
    (s.drawWords a l).spsr? k = s.spsr? k := by cases k <;> simp [spsr?]
@[simp] theorem State.writeBack_spsr? (s : State) (m : Mode) (o : MemOperand) (v : Word) (k : Mode) :
    (s.writeBack m o v).spsr? k = s.spsr? k := by cases k <;> simp [spsr?]

end Sys2Proof.Machine
end

