-- ==== Sys2Proof/Laws/Memory.lean ====
section
/-! SUPPORT. Memory: reads after writes, and the canonical forms kept (spec 20_memory.md R50 to R58,
R72). -/

namespace Sys2Proof.Machine

/-! ## One byte -/

@[simp] theorem Memory.read?_write_self (m : Memory) (a : Nat) (b : Byte) :
    Memory.read? (Memory.write m a b) a = some b := by
  induction m with
  | nil => simp [write, read?]
  | cons c m ih =>
    unfold write
    split
    · simp [read?]
    · split
      · simp [read?]
      · next h => simp [read?, Ne.symm h, ih]

theorem Memory.read?_write_ne (m : Memory) {a x : Nat} (b : Byte) (h : x ≠ a) :
    Memory.read? (Memory.write m a b) x = Memory.read? m x := by
  induction m with
  | nil => simp [write, read?, Ne.symm h]
  | cons c m ih =>
    unfold write
    split
    · simp [read?, Ne.symm h]
    · split
      · next e => simp [read?, Ne.symm h, ← e]
      · simp only [read?, ih]

theorem Memory.read?_write (m : Memory) (a x : Nat) (b : Byte) :
    Memory.read? (Memory.write m a b) x = if x = a then some b else Memory.read? m x := by
  split
  · next h => subst h; simp
  · next h => exact m.read?_write_ne b h

theorem Memory.wfFrom_mono {lo lo' : Nat} {m : Memory} (h : Memory.wfFrom lo m = true)
    (hl : lo' ≤ lo) : Memory.wfFrom lo' m = true := by
  cases m with
  | nil => rfl
  | cons c m =>
    simp only [wfFrom, Bool.and_eq_true, decide_eq_true_eq] at h ⊢
    exact ⟨⟨by omega, h.1.2⟩, h.2⟩

/-- A write keeps the canonical form. -/
theorem Memory.wfFrom_write {lo a : Nat} {m : Memory} (b : Byte) (hm : Memory.wfFrom lo m = true)
    (hl : lo ≤ a) (ha : a < 4294967296) : Memory.wfFrom lo (Memory.write m a b) = true := by
  induction m generalizing lo with
  | nil => simp [write, wfFrom, hl, ha]
  | cons c m ih =>
    simp only [wfFrom, Bool.and_eq_true, decide_eq_true_eq] at hm
    obtain ⟨⟨h1, h2⟩, h3⟩ := hm
    unfold write
    split
    · next h =>
      simp only [wfFrom, Bool.and_eq_true, decide_eq_true_eq]
      exact ⟨⟨hl, ha⟩, ⟨by omega, h2⟩, h3⟩
    · split
      · next h1' h =>
        simp only [wfFrom, Bool.and_eq_true, decide_eq_true_eq]
        exact ⟨⟨hl, ha⟩, h ▸ h3⟩
      · next h h' =>
        simp only [wfFrom, Bool.and_eq_true, decide_eq_true_eq]
        exact ⟨⟨h1, h2⟩, ih h3 (by omega)⟩

theorem Memory.wf_write {a : Nat} {m : Memory} (b : Byte) (hm : Memory.wf m = true)
    (ha : a < 4294967296) : Memory.wf (Memory.write m a b) = true :=
  Memory.wfFrom_write b hm (Nat.zero_le _) ha

/-! ## The set of written addresses -/

@[simp] theorem mem_insertAddr (a x : Nat) (l : List Nat) : x ∈ insertAddr a l ↔ x = a ∨ x ∈ l := by
  induction l with
  | nil => simp [insertAddr]
  | cons y l ih =>
    unfold insertAddr
    split
    · simp
    · split
      · next h => simp [h]
      · simp only [List.mem_cons, ih]; tauto

theorem risingFrom_insertAddr {lo a : Nat} {l : List Nat} (hm : risingFrom lo l = true)
    (hl : lo ≤ a) (ha : a < 4294967296) : risingFrom lo (insertAddr a l) = true := by
  induction l generalizing lo with
  | nil => simp [insertAddr, risingFrom, hl, ha]
  | cons c m ih =>
    simp only [risingFrom, Bool.and_eq_true, decide_eq_true_eq] at hm
    obtain ⟨⟨h1, h2⟩, h3⟩ := hm
    unfold insertAddr
    split
    · next h =>
      simp only [risingFrom, Bool.and_eq_true, decide_eq_true_eq]
      exact ⟨⟨hl, ha⟩, ⟨by omega, h2⟩, h3⟩
    · split
      · next h1' h =>
        simp only [risingFrom, Bool.and_eq_true, decide_eq_true_eq]
        exact ⟨⟨h1, h2⟩, h3⟩
      · next h h' =>
        simp only [risingFrom, Bool.and_eq_true, decide_eq_true_eq]
        exact ⟨⟨h1, h2⟩, ih h3 (by omega)⟩

/-! ## Bytes, half-words and words of the state -/

theorem State.byteAt_storeByte (s : State) (a x : Word) (b : Byte) :
    (s.storeByte a b).byteAt x = if x = a then some b else s.byteAt x := by
  unfold byteAt
  rw [storeByte_mem, Memory.read?_write]
  simp only [BitVec.toNat_inj]

/-- The bytes a store of a width writes: `a` and the addresses after it. -/
def storedAt (a : Word) : Width → List Word
  | .byte => [a]
  | .half => [a, a + 1]
  | .word => [a, a + 1, a + 2, a + 3]

/-- Every byte outside the stored ones reads as before. -/
theorem State.byteAt_store_of_not_mem (s : State) (a x : Word) (w : Width) (v : Word)
    (h : x ∉ storedAt a w) : (s.store a w v).byteAt x = s.byteAt x := by
  cases w <;> simp only [storedAt, List.mem_cons, List.not_mem_nil, or_false, not_or] at h <;>
    simp only [store, byteAt_storeByte, h, if_false]

theorem add_ne_self_of_ne {a k : Word} (h : k ≠ 0) : a + k ≠ a := by
  intro e
  exact h (by simpa using e)

/-- The stored byte is read back. -/
@[simp] theorem State.valueAt_store_byte (s : State) (a v : Word) :
    (s.store a .byte v).valueAt a .byte = some ((v.extractLsb' 0 8).setWidth 32) := by
  simp [valueAt, store, byteAt_storeByte]

theorem word_offsets (a : Word) : a + 1 ≠ a ∧ a + 2 ≠ a ∧ a + 3 ≠ a ∧ a + 2 ≠ a + 1 ∧
    a + 3 ≠ a + 1 ∧ a + 3 ≠ a + 2 := by
  refine ⟨add_ne_self_of_ne (by decide), add_ne_self_of_ne (by decide), add_ne_self_of_ne (by decide),
    ?_, ?_, ?_⟩ <;> intro e <;> have := BitVec.add_right_inj a |>.mp e <;> revert this <;> decide

theorem byteAt_storeWord (s : State) (a v : Word) :
    (s.store a .word v).byteAt a = some (v.extractLsb' 0 8) ∧
    (s.store a .word v).byteAt (a + 1) = some (v.extractLsb' 8 8) ∧
    (s.store a .word v).byteAt (a + 2) = some (v.extractLsb' 16 8) ∧
    (s.store a .word v).byteAt (a + 3) = some (v.extractLsb' 24 8) := by
  obtain ⟨h1, h2, h3, h4, h5, h6⟩ := word_offsets a
  have k1 := h1.symm; have k2 := h2.symm; have k3 := h3.symm
  have k4 := h4.symm; have k5 := h5.symm; have k6 := h6.symm
  refine ⟨?_, ?_, ?_, ?_⟩ <;> simp only [State.store, State.byteAt_storeByte] <;> simp_all

theorem bytes_of_word (v : Word) : v.extractLsb' 24 8 ++ v.extractLsb' 16 8 ++ v.extractLsb' 8 8 ++
    v.extractLsb' 0 8 = v := by
  apply BitVec.eq_of_getLsbD_eq
  intro i hi
  simp only [BitVec.getLsbD_append, BitVec.getLsbD_extractLsb']
  have h : i < 8 ∨ (8 ≤ i ∧ i < 16) ∨ (16 ≤ i ∧ i < 24) ∨ (24 ≤ i ∧ i < 32) := by omega
  rcases h with h | h | h | h
  · simp [h]
  · simp [show ¬ i < 8 by omega, show i - 8 < 8 by omega, show 8 + (i - 8) = i by omega]
  · simp [show ¬ i < 8 by omega, show ¬ i - 8 < 8 by omega, show i - 8 - 8 < 8 by omega,
      show 16 + (i - 8 - 8) = i by omega]
  · simp [show ¬ i < 8 by omega, show ¬ i - 8 < 8 by omega, show ¬ i - 8 - 8 < 8 by omega,
      show i - 8 - 8 - 8 < 8 by omega, show 24 + (i - 8 - 8 - 8) = i by omega]

/-- The stored word is read back (R52, R56). -/
@[simp] theorem State.wordAt_store (s : State) (a v : Word) :
    (s.store a .word v).wordAt a = some v := by
  obtain ⟨h0, h1, h2, h3⟩ := byteAt_storeWord s a v
  unfold wordAt
  rw [h0, h1, h2, h3]
  exact congrArg some (bytes_of_word v)

/-- The stored half-word is read back (R52, R56). -/
@[simp] theorem State.halfAt_store (s : State) (a v : Word) :
    (s.store a .half v).halfAt a = some (v.extractLsb' 8 8 ++ v.extractLsb' 0 8) := by
  simp [halfAt, store, byteAt_storeByte]

/-- A store outside a word leaves the word (R56). -/
theorem State.wordAt_store_of_disjoint (s : State) {a x : Word} (v : Word) (w : Width)
    (h : ∀ y ∈ storedAt x .word, y ∉ storedAt a w) : (s.store a w v).wordAt x = s.wordAt x := by
  simp only [storedAt, List.mem_cons, List.not_mem_nil, or_false, forall_eq_or_imp, forall_eq] at h
  unfold wordAt
  rw [s.byteAt_store_of_not_mem a _ w v h.1, s.byteAt_store_of_not_mem a _ w v h.2.1,
    s.byteAt_store_of_not_mem a _ w v h.2.2.1, s.byteAt_store_of_not_mem a _ w v h.2.2.2]

/-! ## The canonical forms of the state -/

/-- Memory and the written addresses are in canonical form, and every written byte has a value. -/
structure MemoryOk (s : State) : Prop where
  mem : Memory.wf s.mem = true
  written : rising s.written = true
  valued : ∀ a ∈ s.written, (Memory.read? s.mem a).isSome

/-- The memory fields alone decide it. -/
theorem MemoryOk.of_eq {s t : State} (h : MemoryOk s) (hm : t.mem = s.mem)
    (hw : t.written = s.written) : MemoryOk t :=
  ⟨hm ▸ h.mem, hw ▸ h.written, by rw [hm, hw]; exact h.valued⟩

theorem MemoryOk.storeByte {s : State} (h : MemoryOk s) (a : Word) (b : Byte) :
    MemoryOk (s.storeByte a b) := by
  have ha : a.toNat < 4294967296 := a.isLt
  refine ⟨Memory.wf_write b h.mem ha, risingFrom_insertAddr h.written (Nat.zero_le _) ha, ?_⟩
  intro x hx
  rw [State.storeByte_mem, Memory.read?_write]
  rw [State.storeByte_written, mem_insertAddr] at hx
  split
  · rfl
  · next ne => exact h.valued x (hx.resolve_left ne)

/-- A store keeps the canonical forms. -/
theorem MemoryOk.store {s : State} (h : MemoryOk s) (a : Word) (w : Width) (v : Word) :
    MemoryOk (s.store a w v) := by
  cases w with
  | byte => exact h.storeByte _ _
  | half => exact (h.storeByte _ _).storeByte _ _
  | word => exact (((h.storeByte _ _).storeByte _ _).storeByte _ _).storeByte _ _

theorem MemoryOk.drawWords {s : State} (h : MemoryOk s) (a : Word) (l : List Word) :
    MemoryOk (s.drawWords a l) := by
  induction l generalizing s a with
  | nil => exact h
  | cons v l ih =>
    rw [State.drawWords]
    apply ih
    have h' : MemoryOk (s.setDraws (s.draws + 1)) := h.of_eq rfl rfl
    split
    · exact h'.store _ _ _
    · exact h'

theorem MemoryOk.memWrite {s t : State} {p : Priv} {a v : Word} {w : Width} (h : MemoryOk s)
    (ht : s.memWrite p a w v = .ok t) : MemoryOk t := by
  unfold State.memWrite at ht
  split at ht
  · cases ht
  · cases ht; exact h.store _ _ _

/-- Placing a word of the program keeps the canonical forms. -/
theorem MemoryOk.placeWord {s : State} (h : MemoryOk s) (a w : Word) :
    Memory.wf (s.placeWord a w).mem = true := by
  unfold State.placeWord
  exact Memory.wf_write _ (Memory.wf_write _ (Memory.wf_write _ (Memory.wf_write _ h.mem a.isLt)
    (a + 1).isLt) (a + 2).isLt) (a + 3).isLt

end Sys2Proof.Machine
end

