-- ==== Sys2Proof/Laws/Registers.lean ====
section
/-! SUPPORT. Reads after writes of the general registers (spec 10_state.md R21, R22). -/

namespace Sys2Proof.Machine

theorem PhysReg.idx_inj {p q : PhysReg} (h : p.idx = q.idx) : p = q := by
  have left : ∀ r : PhysReg, PhysReg.all[(r.idx : Nat)]? = some r := by intro r; cases r <;> rfl
  have := left p
  rw [h, left q] at this
  exact (Option.some.inj this).symm

theorem PhysReg.mem_all (p : PhysReg) : p ∈ PhysReg.all := by cases p <;> decide

@[simp] theorem State.getPhys_setPhys_self (s : State) (p : PhysReg) (v : Word) :
    (s.setPhys p v).getPhys p = v := by
  simp [getPhys, Vector.get_eq_getElem]

theorem State.getPhys_setPhys_ne (s : State) {p q : PhysReg} (v : Word) (h : q ≠ p) :
    (s.setPhys p v).getPhys q = s.getPhys q := by
  have hne : (p.idx : Nat) ≠ q.idx := fun e => h (PhysReg.idx_inj (Fin.ext e)).symm
  simp [getPhys, Vector.get_eq_getElem, hne]

theorem State.getPhys_setPhys (s : State) (p q : PhysReg) (v : Word) :
    (s.setPhys p v).getPhys q = if q = p then v else s.getPhys q := by
  split
  · next h => subst h; simp
  · next h => exact s.getPhys_setPhys_ne v h

/-- Two states with equal registers hold equal register vectors. -/
theorem gpr_ext {s t : State} (h : ∀ p : PhysReg, s.getPhys p = t.getPhys p) : s.gpr = t.gpr := by
  have surj : ∀ k : Fin 30, ∃ p : PhysReg, p.idx = k := by
    intro k
    have hk : ∀ k : Fin 30, ∃ p ∈ PhysReg.all, p.idx = k := by decide
    obtain ⟨p, -, hp⟩ := hk k
    exact ⟨p, hp⟩
  apply Vector.ext
  intro i hi
  obtain ⟨p, hp⟩ := surj ⟨i, hi⟩
  have := h p
  simpa [State.getPhys, Vector.get_eq_getElem, hp] using this

/-- Within one mode, different numbers reach different registers (R21). -/
theorem physReg_inj {m : Mode} {i j : RegNum} {p : PhysReg} (hi : physReg m i = some p)
    (hj : physReg m j = some p) : i = j := by
  have key : ∀ m : Mode, ∀ i j : RegNum, physReg m i = physReg m j → physReg m i ≠ none → i = j := by
    intro m
    cases m <;> decide
  exact key m i j (hi.trans hj.symm) (by simp [hi])

/-- Only r15 is no register of the bank (R23). -/
theorem physReg_eq_none_iff (m : Mode) (i : RegNum) : physReg m i = none ↔ i = 15 := by
  revert i
  cases m <;> decide

theorem physReg_isSome {m : Mode} {i : RegNum} (h : i ≠ 15) : ∃ p, physReg m i = some p :=
  Option.ne_none_iff_exists'.mp (fun e => h ((physReg_eq_none_iff m i).mp e))

@[simp] theorem readReg_fifteen (s : State) (m : Mode) : s.readReg m 15 = s.pc + 8 := by
  have : physReg m 15 = none := (physReg_eq_none_iff m 15).mpr rfl
  unfold State.readReg
  rw [this]
  rfl

theorem readReg_eq {s : State} {m : Mode} {i : RegNum} {p : PhysReg} (h : physReg m i = some p) :
    s.readReg m i = s.getPhys p := by simp [State.readReg, h]

theorem writeReg_eq {s : State} {m : Mode} {i : RegNum} {p : PhysReg} (v : Word)
    (h : physReg m i = some p) : s.writeReg m i v = s.setPhys p v := by simp [State.writeReg, h]

/-- A register read in the mode it was written in. -/
theorem readReg_writeReg_self (s : State) (m : Mode) {i : RegNum} (v : Word) (h : i ≠ 15) :
    (s.writeReg m i v).readReg m i = v := by
  obtain ⟨p, hp⟩ := physReg_isSome (m := m) h
  simp [readReg_eq hp, writeReg_eq v hp]

/-- Another register of the same mode keeps its value. -/
theorem readReg_writeReg_ne (s : State) (m : Mode) {i j : RegNum} (v : Word) (h : j ≠ i) :
    (s.writeReg m i v).readReg m j = s.readReg m j := by
  unfold State.readReg State.writeReg
  cases hi : physReg m i with
  | none => rfl
  | some p =>
    cases hj : physReg m j with
    | none => simp
    | some q =>
      have : q ≠ p := fun e => h (physReg_inj hj (e ▸ hi))
      simp [State.getPhys_setPhys_ne s v this]

/-- What a write of one mode's register leaves of the physical registers. -/
theorem getPhys_writeReg (s : State) (m : Mode) (i : RegNum) (v : Word) (q : PhysReg) :
    (s.writeReg m i v).getPhys q = if physReg m i = some q then v else s.getPhys q := by
  unfold State.writeReg
  cases h : physReg m i with
  | none => simp
  | some p =>
    by_cases e : q = p
    · subst e; simp
    · simp [State.getPhys_setPhys_ne s v e, Ne.symm e]

/-- A physical register that no listed number reaches keeps its value. -/
theorem getPhys_writeRegs_of_not_mem (s : State) (m : Mode) (l : List (RegNum × Word)) (q : PhysReg)
    (h : ∀ x ∈ l, physReg m x.1 ≠ some q) : (s.writeRegs m l).getPhys q = s.getPhys q := by
  induction l generalizing s with
  | nil => rfl
  | cons x l ih =>
    rw [State.writeRegs, ih _ (fun y hy => h y (List.mem_cons_of_mem _ hy)), getPhys_writeReg,
      if_neg (h x List.mem_cons_self)]

/-- A register listed once holds its value afterwards. -/
theorem getPhys_writeRegs_of_mem (s : State) (m : Mode) (l : List (RegNum × Word)) (i : RegNum)
    (v : Word) (q : PhysReg) (hq : physReg m i = some q) (hl : (l.map Prod.fst).Nodup)
    (h : (i, v) ∈ l) : (s.writeRegs m l).getPhys q = v := by
  induction l generalizing s with
  | nil => simp at h
  | cons x l ih =>
    simp only [List.map_cons, List.nodup_cons] at hl
    rcases List.mem_cons.mp h with e | h'
    · subst e
      rw [State.writeRegs, getPhys_writeRegs_of_not_mem, getPhys_writeReg, if_pos hq]
      intro y hy hp
      have e : y.1 = i := physReg_inj hp hq
      exact hl.1 (List.mem_map.mpr ⟨y, hy, e⟩)
    · exact ih _ hl.2 h'

/-- A register that is not drawn keeps its value. -/
theorem getPhys_drawRegs_of_not_mem (s : State) (l : List PhysReg) (q : PhysReg) (h : q ∉ l) :
    (s.drawRegs l).getPhys q = s.getPhys q := by
  induction l generalizing s with
  | nil => rfl
  | cons p l ih =>
    simp only [List.mem_cons, not_or] at h
    rw [State.drawRegs, ih _ h.2, State.setDraws_getPhys, State.getPhys_setPhys_ne _ _ h.1]

end Sys2Proof.Machine
end

