-- ==== Sys2Proof/Laws/Ops.lean ====
section
/-! SUPPORT. One lemma for each shared operation, which says once everything it can do. -/

namespace Sys2Proof.Machine

/-! ## Results -/

@[simp] theorem Res.bind_ok_left {α β : Type} (a : α) (f : α → Res β) :
    (Res.ok a).bind f = f a := rfl

/-- A sequence succeeds when both parts do. -/
theorem Res.bind_ok {α β : Type} {x : Res α} {f : α → Res β} {b : β} :
    x.bind f = .ok b ↔ ∃ a, x = .ok a ∧ f a = .ok b := by
  cases x <;> simp [Res.bind]

/-- A sequence ends in a Data Abort when one of its parts does. -/
theorem Res.bind_abort {α β : Type} {x : Res α} {f : α → Res β} {i : AbortInfo} :
    x.bind f = .abort i ↔ x = .abort i ∨ ∃ a, x = .ok a ∧ f a = .abort i := by
  cases x <;> simp [Res.bind]

/-- A sequence is refused when one of its parts is. -/
theorem Res.bind_refuse {α β : Type} {x : Res α} {f : α → Res β} {r : Refusal} :
    x.bind f = .refuse r ↔ x = .refuse r ∨ ∃ a, x = .ok a ∧ f a = .refuse r := by
  cases x <;> simp [Res.bind]

theorem Res.exists_ok_unit {x : Res Unit} : (∃ u, x = .ok u) ↔ x = .ok () :=
  ⟨fun ⟨(), h⟩ => h, fun h => ⟨(), h⟩⟩

/-! ## Ending an instruction -/

theorem State.advance_ok {s t : State} :
    s.advance = .ok t ↔ s.pc ≠ 0xFFFFFFFC ∧ t = s.setPc (s.pc + 4) := by
  unfold advance
  split
  · next h => simp only [h, ne_eq, not_true_eq_false, false_and, reduceCtorEq]
  · next h => simp only [Res.ok.injEq, ne_eq, h, not_false_eq_true, true_and, eq_comm]

theorem State.advance_ne_abort {s : State} {i : AbortInfo} : s.advance ≠ .abort i := by
  unfold advance
  split <;> simp

theorem State.jump_ok {s t : State} {v : Word} :
    s.jump v = .ok t ↔ v.extractLsb' 0 2 = 0 ∧ t = s.setPc v := by
  unfold jump
  split
  · next h => simp only [Res.ok.injEq, h, true_and, eq_comm]
  · next h => simp only [h, false_and, reduceCtorEq]

theorem State.jump_ne_abort {s : State} {v : Word} {i : AbortInfo} : s.jump v ≠ .abort i := by
  unfold jump
  split <;> simp

/-- A return from an exception: the mode has an SPSR, whose T is 0 and whose M is a mode. -/
theorem State.returnFromException_ok {s t : State} {m : Mode} {v : Word} :
    s.returnFromException m v = .ok t ↔
      ∃ p, s.spsr? m = some p ∧ psrT p = false ∧ psrMode? p ≠ none ∧ v.extractLsb' 0 2 = 0 ∧
        t = (s.setCpsr p).setPc v := by
  unfold returnFromException
  cases h : s.spsr? m with
  | none => simp
  | some p =>
    by_cases ht : psrT p = true
    · simp [ht]
    · by_cases hm : psrMode? p = none
      · simp [ht, hm]
      · simp only [ht, Bool.false_eq_true, if_false, hm, jump_ok, Option.some.injEq,
          exists_eq_left', ne_eq, not_false_eq_true, true_and]

theorem State.returnFromException_ne_abort {s : State} {m : Mode} {v : Word} {i : AbortInfo} :
    s.returnFromException m v ≠ .abort i := by
  unfold returnFromException
  split
  · simp
  · split
    · simp
    · split
      · simp
      · exact jump_ne_abort

/-- What an instruction can come to: nothing but the pc where the condition fails; otherwise what
its body gives, or a Data Abort from the state it began in. -/
theorem State.whenPassed_next {s t : State} {c : Cond} {body : Mode → Res State} :
    s.whenPassed c body = .next t ↔
      ∃ m, s.mode? = some m ∧
        ((s.condPassed c = false ∧ s.pc ≠ 0xFFFFFFFC ∧ t = s.setPc (s.pc + 4)) ∨
          (s.condPassed c = true ∧
            (body m = .ok t ∨ ∃ i, body m = .abort i ∧ t = s.enterDataAbort i))) := by
  unfold whenPassed
  cases hm : s.mode? with
  | none => simp
  | some m =>
    cases hc : s.condPassed c with
    | false =>
      cases ha : s.advance with
      | ok u =>
        have hu := advance_ok.mp ha
        simp only [Bool.false_eq_true, if_false, conclude, Host.Outcome.next.injEq, Option.some.injEq,
          exists_eq_left', true_and, false_and, or_false]
        exact ⟨fun e => ⟨hu.1, e ▸ hu.2⟩, fun e => hu.2.trans e.2.symm⟩
      | abort i => exact absurd ha advance_ne_abort
      | fault f =>
        exfalso; unfold advance at ha; split at ha <;> cases ha
      | refuse r =>
        have : s.pc = 0xFFFFFFFC := by
          unfold advance at ha
          split at ha
          · assumption
          · cases ha
        simp only [Bool.false_eq_true, if_false, conclude, Option.some.injEq,
          exists_eq_left', true_and, this, ne_eq, not_true_eq_false, false_and, or_false,
          reduceCtorEq]
    | true =>
      cases hb : body m <;> simp [hb, conclude, eq_comm]

/-- The condition passed, in a mode: the body's result is the outcome. -/
theorem State.whenPassed_of_passed {s : State} {c : Cond} {m : Mode} {body : Mode → Res State}
    (hm : s.mode? = some m) (hc : s.condPassed c = true) :
    s.whenPassed c body = s.conclude (body m) := by
  simp [whenPassed, hm, hc]

@[simp] theorem State.conclude_ok (s t : State) : s.conclude (.ok t) = .next t := rfl
@[simp] theorem State.conclude_abort (s : State) (i : AbortInfo) :
    s.conclude (.abort i) = .next (s.enterDataAbort i) := rfl
@[simp] theorem State.conclude_fault (s : State) (f : Fault) : s.conclude (.fault f) = .fault f := rfl
@[simp] theorem State.conclude_refuse (s : State) (r : Refusal) :
    s.conclude (.refuse r) = .refused r := rfl

/-! ## Accesses -/

theorem State.memRead_ok {s : State} {p : Priv} {a v : Word} {w : Width} :
    s.memRead p a w = .ok v ↔ s.denied a w .read p = false ∧ s.valueAt a w = some v := by
  unfold memRead
  cases hd : s.denied a w .read p <;> cases hv : s.valueAt a w <;> simp

theorem State.memRead_abort {s : State} {p : Priv} {a : Word} {w : Width} {i : AbortInfo} :
    s.memRead p a w = .abort i ↔ s.denied a w .read p = true ∧ i = ⟨.permission, a⟩ := by
  unfold memRead
  cases hd : s.denied a w .read p <;> cases hv : s.valueAt a w <;> simp [eq_comm]

theorem State.memWrite_ok {s t : State} {p : Priv} {a v : Word} {w : Width} :
    s.memWrite p a w v = .ok t ↔ s.denied a w .write p = false ∧ t = s.store a w v := by
  unfold memWrite
  cases hd : s.denied a w .write p <;> simp [eq_comm]

theorem State.memWrite_abort {s : State} {p : Priv} {a v : Word} {w : Width} {i : AbortInfo} :
    s.memWrite p a w v = .abort i ↔ s.denied a w .write p = true ∧ i = ⟨.permission, a⟩ := by
  unfold memWrite
  cases hd : s.denied a w .write p <;> simp [eq_comm]

theorem State.checkAlign_ok {s : State} {a : Word} {w : Width} :
    s.checkAlign a w = .ok () ↔
      aligned a w = true ∨ (s.alignFlag = false ∧ s.params.unalignedHw = false ∧ w ≠ .half) := by
  unfold checkAlign
  cases ha : aligned a w <;> cases hf : s.alignFlag <;> cases hh : s.params.unalignedHw <;>
    by_cases hw : w = .half <;> simp [hw]

theorem State.checkAlign_abort {s : State} {a : Word} {w : Width} {i : AbortInfo} :
    s.checkAlign a w = .abort i ↔
      aligned a w = false ∧ s.alignFlag = true ∧ i = ⟨.alignment, a⟩ := by
  unfold checkAlign
  cases ha : aligned a w <;> cases hf : s.alignFlag <;> cases hh : s.params.unalignedHw <;>
    by_cases hw : w = .half <;> simp [hw, eq_comm]

/-! ## Single transfers -/

theorem State.finishLoad_ok {s t : State} {m : Mode} {d : RegNum} {v : Word} :
    s.finishLoad m d v = .ok t ↔
      (d = 15 ∧ v.extractLsb' 0 2 = 0 ∧ t = s.setPc v) ∨
      (d ≠ 15 ∧ s.pc ≠ 0xFFFFFFFC ∧ t = (s.writeReg m d v).setPc (s.pc + 4)) := by
  unfold finishLoad
  split
  · next h => simp only [h, jump_ok, true_and, ne_eq, not_true_eq_false, false_and, or_false]
  · next h => simp only [h, advance_ok, false_and, ne_eq, not_false_eq_true, true_and, false_or,
      writeReg_pc]

theorem State.finishLoad_ne_abort {s : State} {m : Mode} {d : RegNum} {v : Word} {i : AbortInfo} :
    s.finishLoad m d v ≠ .abort i := by
  unfold finishLoad
  split
  · exact jump_ne_abort
  · exact advance_ne_abort

/-- Everything a single load that ends can have done. -/
theorem State.loadSingle_ok {s t : State} {m : Mode} {k : LoadKind} {uv : Bool} {o : MemOperand}
    {d : RegNum} {pcA : Bool} :
    s.loadSingle m k uv o d pcA = .ok t ↔
      o.unpredictable d pcA = false ∧ s.checkAlign (s.address m o) k.width = .ok () ∧
      ∃ v, s.memRead (accessPriv m uv) (accessAddr (s.address m o) k.width) k.width = .ok v ∧
        (s.writeBack m o (s.indexed m o)).finishLoad m d (k.extend (s.address m o) v) = .ok t := by
  unfold loadSingle
  cases hu : o.unpredictable d pcA
  · simp only [Bool.false_eq_true, if_false, true_and, Res.bind_ok]
    exact ⟨fun ⟨(), h⟩ => h, fun h => ⟨(), h⟩⟩
  · simp

/-- A single load aborts at its alignment check or at its access. -/
theorem State.loadSingle_abort {s : State} {m : Mode} {k : LoadKind} {uv : Bool} {o : MemOperand}
    {d : RegNum} {pcA : Bool} {i : AbortInfo} :
    s.loadSingle m k uv o d pcA = .abort i ↔
      o.unpredictable d pcA = false ∧
      (s.checkAlign (s.address m o) k.width = .abort i ∨
        s.checkAlign (s.address m o) k.width = .ok () ∧
        s.memRead (accessPriv m uv) (accessAddr (s.address m o) k.width) k.width = .abort i) := by
  unfold loadSingle
  cases hu : o.unpredictable d pcA
  · simp only [Bool.false_eq_true, if_false, true_and, Res.bind_abort, finishLoad_ne_abort, and_false,
      exists_false, or_false]
    exact ⟨fun h => h.imp_right fun ⟨(), h⟩ => h, fun h => h.imp_right fun h => ⟨(), h⟩⟩
  · simp

/-- Everything a single store that ends can have done. -/
theorem State.storeSingle_ok {s t : State} {m : Mode} {w : Width} {uv : Bool} {o : MemOperand}
    {d : RegNum} {pcA : Bool} :
    s.storeSingle m w uv o d pcA = .ok t ↔
      o.unpredictable d pcA = false ∧ s.checkAlign (s.address m o) w = .ok () ∧
      s.denied (accessAddr (s.address m o) w) w .write (accessPriv m uv) = false ∧
      s.pc ≠ 0xFFFFFFFC ∧
      t = ((s.store (accessAddr (s.address m o) w) w (s.storedReg m d)).writeBack m o
        (s.indexed m o)).setPc (s.pc + 4) := by
  unfold storeSingle
  cases hu : o.unpredictable d pcA
  · simp only [Bool.false_eq_true, if_false, true_and, Res.bind_ok, memWrite_ok, advance_ok]
    constructor
    · rintro ⟨⟨⟩, hc, u, ⟨hd, rfl⟩, hp, rfl⟩
      refine ⟨hc, hd, by simpa only [writeBack_pc, store_pc] using hp, ?_⟩
      simp only [writeBack_pc, store_pc]
    · rintro ⟨hc, hd, hp, rfl⟩
      exact ⟨(), hc, _, ⟨hd, rfl⟩, by simpa only [writeBack_pc, store_pc] using hp,
        by simp only [writeBack_pc, store_pc]⟩
  · simp

/-- A single store aborts at its alignment check or at its access. -/
theorem State.storeSingle_abort {s : State} {m : Mode} {w : Width} {uv : Bool} {o : MemOperand}
    {d : RegNum} {pcA : Bool} {i : AbortInfo} :
    s.storeSingle m w uv o d pcA = .abort i ↔
      o.unpredictable d pcA = false ∧
      (s.checkAlign (s.address m o) w = .abort i ∨
        s.checkAlign (s.address m o) w = .ok () ∧
        s.denied (accessAddr (s.address m o) w) w .write (accessPriv m uv) = true ∧
        i = ⟨.permission, accessAddr (s.address m o) w⟩) := by
  unfold storeSingle
  cases hu : o.unpredictable d pcA
  · simp only [Bool.false_eq_true, if_false, true_and, Res.bind_abort, memWrite_abort,
      advance_ne_abort, and_false, exists_false, or_false]
    exact ⟨fun h => h.imp_right fun ⟨(), h⟩ => h, fun h => h.imp_right fun h => ⟨(), h⟩⟩
  · simp

/-! ## Multiple transfers -/

/-- The checks of a multiple transfer are passed. -/
theorem State.checkBlock_ok {s : State} {l : Bool} {b : BlockMode} {w : Bool} {n : RegNum}
    {list : BitVec 16} {base : Word} :
    s.checkBlock l b w n list base = .ok () ↔
      list ≠ 0 ∧ n ≠ 15 ∧ baseListed l w n list = false ∧ aligned base .word = true ∧
        b.wraps base (regsOf list).length = false := by
  unfold checkBlock
  by_cases h1 : list = 0
  · simp only [h1, if_true, reduceCtorEq, ne_eq, not_true_eq_false, false_and]
  by_cases h2 : n = 15
  · simp only [h1, h2, if_false, if_true, reduceCtorEq, ne_eq, not_true_eq_false, false_and,
      and_false]
  simp only [h1, h2, if_false, ne_eq, not_false_eq_true, true_and]
  cases h3 : baseListed l w n list <;> cases h4 : aligned base .word <;> cases h5 : s.alignFlag <;>
    cases h6 : b.wraps base (regsOf list).length <;> simp

/-- A multiple transfer aborts before its accesses only for an unaligned base with A = 1. -/
theorem State.checkBlock_abort {s : State} {l : Bool} {b : BlockMode} {w : Bool} {n : RegNum}
    {list : BitVec 16} {base : Word} {i : AbortInfo} :
    s.checkBlock l b w n list base = .abort i ↔
      list ≠ 0 ∧ n ≠ 15 ∧ baseListed l w n list = false ∧ aligned base .word = false ∧
        s.alignFlag = true ∧ i = ⟨.alignment, base⟩ := by
  unfold checkBlock
  by_cases h1 : list = 0
  · simp only [h1, if_true, reduceCtorEq, ne_eq, not_true_eq_false, false_and]
  by_cases h2 : n = 15
  · simp only [h1, h2, if_false, if_true, reduceCtorEq, ne_eq, not_true_eq_false, false_and,
      and_false]
  simp only [h1, h2, if_false, ne_eq, not_false_eq_true, true_and]
  cases h3 : baseListed l w n list <;> cases h4 : aligned base .word <;> cases h5 : s.alignFlag <;>
    cases h6 : b.wraps base (regsOf list).length <;> simp [eq_comm]

/-- The read values keep the list's registers in order. -/
theorem readWords_fst {s : State} {p : Priv} {a : Word} {l : List RegNum}
    {vs : List (RegNum × Word)} (h : s.readWords p a l = .ok vs) : vs.map Prod.fst = l := by
  induction l generalizing a vs with
  | nil => simp only [State.readWords, Res.ok.injEq] at h; subst h; rfl
  | cons i l ih =>
    simp only [State.readWords, Res.bind_ok, Res.ok.injEq] at h
    obtain ⟨v, -, vs', h', rfl⟩ := h
    simp [ih h']

/-- The value read for the register at each place of the list (R171). -/
theorem readWords_value {s : State} {p : Priv} {a : Word} {l : List RegNum}
    {vs : List (RegNum × Word)} (h : s.readWords p a l = .ok vs) {k : Nat} {x : RegNum × Word}
    (hk : vs[k]? = some x) :
    s.denied (a + 4 * BitVec.ofNat 32 k) .word .read p = false ∧
      s.wordAt (a + 4 * BitVec.ofNat 32 k) = some x.2 := by
  induction l generalizing a vs k with
  | nil => simp only [State.readWords, Res.ok.injEq] at h; subst h; simp at hk
  | cons i l ih =>
    simp only [State.readWords, Res.bind_ok, Res.ok.injEq] at h
    obtain ⟨v, hv, vs', h', rfl⟩ := h
    cases k with
    | zero =>
      simp only [List.getElem?_cons_zero, Option.some.injEq] at hk
      subst hk
      have := State.memRead_ok.mp hv
      have e : a + 4 * BitVec.ofNat 32 0 = a := by bv_omega
      rw [e]
      exact this
    | succ k =>
      simp only [List.getElem?_cons_succ] at hk
      have e : a + 4 * BitVec.ofNat 32 (k + 1) = a + 4 + 4 * BitVec.ofNat 32 k := by
        rw [show BitVec.ofNat 32 (k + 1) = BitVec.ofNat 32 k + 1 by
          simp [BitVec.ofNat_add]]
        ring
      rw [e]
      exact ih h' hk

/-- Each word of the range is readable and has a value: the reads of the list succeed. -/
theorem readWords_of_readable (s : State) (p : Priv) (a : Word) (l : List RegNum) (f : RegNum → Word)
    (h : ∀ k i, l[k]? = some i → s.denied (a + 4 * BitVec.ofNat 32 k) .word .read p = false ∧
      s.wordAt (a + 4 * BitVec.ofNat 32 k) = some (f i)) :
    s.readWords p a l = .ok (l.map fun i => (i, f i)) := by
  induction l generalizing a with
  | nil => rfl
  | cons i l ih =>
    have h0 := h 0 i rfl
    have e : a + 4 * BitVec.ofNat 32 0 = a := by bv_omega
    rw [e] at h0
    have h1 : s.memRead p a .word = .ok (f i) := State.memRead_ok.mpr h0
    have h2 : s.readWords p (a + 4) l = .ok (l.map fun i => (i, f i)) := by
      apply ih
      intro k j hk
      have := h (k + 1) j (by simpa using hk)
      have e : a + 4 * BitVec.ofNat 32 (k + 1) = a + 4 + 4 * BitVec.ofNat 32 k := by
        rw [show BitVec.ofNat 32 (k + 1) = BitVec.ofNat 32 k + 1 by simp [BitVec.ofNat_add]]
        ring
      rwa [e] at this
    simp only [State.readWords, h1, h2, Res.bind, List.map_cons]

/-- The list's reads abort at the first access that is denied. -/
theorem readWords_abort {s : State} {p : Priv} {a : Word} {l : List RegNum} {i : AbortInfo}
    (h : s.readWords p a l = .abort i) :
    ∃ k, k < l.length ∧ i = ⟨.permission, a + 4 * BitVec.ofNat 32 k⟩ := by
  induction l generalizing a with
  | nil => simp [State.readWords] at h
  | cons r l ih =>
    simp only [State.readWords, Res.bind_abort] at h
    rcases h with h | ⟨v, -, h | ⟨vs, -, h⟩⟩
    · exact ⟨0, by simp, by rw [(State.memRead_abort.mp h).2]; congr 1; bv_omega⟩
    · obtain ⟨k, hk, rfl⟩ := ih h
      refine ⟨k + 1, by simpa using hk, ?_⟩
      congr 1
      rw [show BitVec.ofNat 32 (k + 1) = BitVec.ofNat 32 k + 1 by simp [BitVec.ofNat_add]]
      ring
    · cases h

/-- What the writes of a list keep of the state: all but memory. -/
theorem writeWords_keeps {s t : State} {p : Priv} {a : Word} {l : List Word}
    (h : s.writeWords p a l = .ok t) :
    t.gpr = s.gpr ∧ t.pc = s.pc ∧ t.cpsr = s.cpsr ∧ (∀ m, t.spsr? m = s.spsr? m) ∧
      t.cp15c1 = s.cp15c1 ∧ t.abortInfo = s.abortInfo ∧ t.bankHazard = s.bankHazard ∧
      t.denials = s.denials ∧ t.lines = s.lines ∧ t.params = s.params ∧ t.draws = s.draws := by
  induction l generalizing s a with
  | nil => simp only [State.writeWords, Res.ok.injEq] at h; subst h; simp
  | cons v l ih =>
    simp only [State.writeWords, Res.bind_ok, State.memWrite_ok] at h
    obtain ⟨u, ⟨-, rfl⟩, h⟩ := h
    simpa using ih h

theorem MemoryOk.writeWords {s t : State} {p : Priv} {a : Word} {l : List Word} (hs : MemoryOk s)
    (h : s.writeWords p a l = .ok t) : MemoryOk t := by
  induction l generalizing s a with
  | nil => simp only [State.writeWords, Res.ok.injEq] at h; exact h ▸ hs
  | cons v l ih =>
    simp only [State.writeWords, Res.bind_ok] at h
    obtain ⟨u, hu, h⟩ := h
    exact ih (hs.memWrite hu) h

/-- Everything an LDM can come to: the end its `finish` gives the loaded registers, or a Data Abort
at one of its reads, with the registers of the list drawn. -/
theorem State.loadBlock_ok {s t : State} {m bank : Mode} {b : BlockMode} {w : Bool} {n : RegNum}
    {list : BitVec 16} {finish : State → Option Word → Res State} :
    s.loadBlock m bank b w n list finish = .ok t ↔
      s.checkBlock true b w n list (s.readReg m n) = .ok () ∧
      ((∃ vs, s.readWords m.priv (b.start (s.readReg m n) (regsOf list).length) (regsOf list) = .ok vs ∧
          finish ((if w then s.writeReg m n (b.newBase (s.readReg m n) (regsOf list).length)
            else s).writeRegs bank vs) (pcValue vs) = .ok t) ∨
        ∃ i, s.readWords m.priv (b.start (s.readReg m n) (regsOf list).length) (regsOf list) =
            .abort i ∧
          t = (s.drawRegs (clobbered bank m n (regsOf list))).enterDataAbort i) := by
  unfold loadBlock
  simp only [Res.bind_ok]
  constructor
  · rintro ⟨⟨⟩, hc, h⟩
    refine ⟨hc, ?_⟩
    cases hr : s.readWords m.priv (b.start (s.readReg m n) (regsOf list).length) (regsOf list) with
    | ok vs => rw [hr] at h; exact .inl ⟨vs, rfl, h⟩
    | abort i => rw [hr] at h; exact .inr ⟨i, rfl, (Res.ok.inj h).symm⟩
    | fault f => rw [hr] at h; cases h
    | refuse r => rw [hr] at h; cases h
  · rintro ⟨hc, ⟨vs, hr, h⟩ | ⟨i, hr, rfl⟩⟩
    · exact ⟨(), hc, by rw [hr]; exact h⟩
    · exact ⟨(), hc, by rw [hr]⟩

/-- Everything an STM can come to: the words stored and the base written back, or a Data Abort at
one of its writes, with each word of the range drawn. -/
theorem State.storeBlock_ok {s t : State} {m bank : Mode} {b : BlockMode} {w : Bool} {n : RegNum}
    {list : BitVec 16} :
    s.storeBlock m bank b w n list = .ok t ↔
      s.checkBlock false b w n list (s.readReg m n) = .ok () ∧
      ((∃ u, s.writeWords m.priv (b.start (s.readReg m n) (regsOf list).length)
            ((regsOf list).map (s.storedReg bank)) = .ok u ∧
          u.pc ≠ 0xFFFFFFFC ∧
          t = (if w then u.writeReg m n (b.newBase (s.readReg m n) (regsOf list).length)
            else u).setPc (u.pc + 4)) ∨
        ∃ i, s.writeWords m.priv (b.start (s.readReg m n) (regsOf list).length)
            ((regsOf list).map (s.storedReg bank)) = .abort i ∧
          t = (s.drawWords (b.start (s.readReg m n) (regsOf list).length)
            ((regsOf list).map (s.storedReg bank))).enterDataAbort i) := by
  unfold storeBlock
  simp only [Res.bind_ok]
  have hpc : ∀ u : State, (if w then u.writeReg m n (b.newBase (s.readReg m n) (regsOf list).length)
      else u).pc = u.pc := by intro u; cases w <;> simp
  constructor
  · rintro ⟨⟨⟩, hc, h⟩
    refine ⟨hc, ?_⟩
    cases hr : s.writeWords m.priv (b.start (s.readReg m n) (regsOf list).length)
        ((regsOf list).map (s.storedReg bank)) with
    | ok u =>
      rw [hr] at h
      have h' := advance_ok.mp h
      rw [hpc u] at h'
      exact .inl ⟨u, rfl, h'.1, h'.2⟩
    | abort i => rw [hr] at h; exact .inr ⟨i, rfl, (Res.ok.inj h).symm⟩
    | fault f => rw [hr] at h; cases h
    | refuse r => rw [hr] at h; cases h
  · rintro ⟨hc, ⟨u, hr, h1, h2⟩ | ⟨i, hr, rfl⟩⟩
    · refine ⟨(), hc, ?_⟩
      rw [hr]
      refine advance_ok.mpr ⟨?_, ?_⟩
      · rw [hpc u]; exact h1
      · rw [hpc u]; exact h2
    · exact ⟨(), hc, by rw [hr]⟩

/-! ## Swap and CP15 -/

/-- Everything a swap that ends can have done. -/
theorem State.swap_ok {s t : State} {m : Mode} {w : Width} {n d r : RegNum} :
    s.swap m w n d r = .ok t ↔
      ¬(n = 15 ∨ d = 15 ∨ r = 15 ∨ n = r ∨ n = d) ∧ aligned (s.readReg m n) w = true ∧
      s.denied (s.readReg m n) w .write m.priv = false ∧ s.pc ≠ 0xFFFFFFFC ∧
      ∃ v, s.memRead m.priv (s.readReg m n) w = .ok v ∧
        t = ((s.store (s.readReg m n) w (s.readReg m r)).writeReg m d v).setPc (s.pc + 4) := by
  unfold swap
  split
  · next h => simp only [h, not_true_eq_false, false_and, reduceCtorEq]
  · next h =>
    cases ha : aligned (s.readReg m n) w
    · dsimp only
      rw [ha]
      cases s.alignFlag <;> simp
    · dsimp only
      rw [ha]
      simp only [Bool.not_true, Bool.false_eq_true, if_false, Res.bind_ok, memWrite_ok, advance_ok,
        h, not_false_eq_true, true_and, writeReg_pc]
      constructor
      · rintro ⟨v, hv, u, ⟨hd, rfl⟩, hp, rfl⟩
        simp only [store_pc] at hp ⊢
        exact ⟨hd, hp, v, hv, rfl⟩
      · rintro ⟨hd, hp, v, hv, rfl⟩
        exact ⟨v, hv, _, ⟨hd, rfl⟩, by simpa only [store_pc] using hp, by simp only [store_pc]⟩

/-- Everything a CP15 access can come to: an Undefined Instruction exception in User mode, or its
body on register 1. -/
theorem State.cp15Access_ok {s t : State} {m : Mode} {crn : BitVec 4} {d : RegNum} {op2 : BitVec 3}
    {crm : BitVec 4} {body : Res State} :
    s.cp15Access m crn d op2 crm body = .ok t ↔
      (m = .usr ∧ t = s.enterException .undefined (s.pc + 4)) ∨
      (m ≠ .usr ∧ isControlReg crn op2 crm = true ∧ d ≠ 15 ∧ body = .ok t) := by
  unfold cp15Access
  by_cases h1 : m = .usr
  · simp only [h1, if_true, Res.ok.injEq, true_and, ne_eq, not_true_eq_false, false_and, or_false,
      eq_comm]
  · simp only [h1, if_false, false_and, ne_eq, not_false_eq_true, true_and, false_or]
    cases h2 : isControlReg crn op2 crm
    · simp
    · by_cases h3 : d = 15
      · simp only [h3, Bool.not_true, Bool.false_eq_true, if_false, if_true, reduceCtorEq,
          not_true_eq_false, false_and, and_false]
      · simp only [h3, Bool.not_true, Bool.false_eq_true, if_false, not_false_eq_true, true_and]

end Sys2Proof.Machine
end

