-- ==== Sys2Proof/Laws/Exec.lean ====
section
/-! SUPPORT. Which shared operation each instruction is (spec files 40 to 46), and the terms of the
claims read as the operand forms of the machine. -/

namespace Sys2Proof.Machine

open Sys2Proof.Claims

/-- The meaning of an instruction is one of these twelve operations. -/
inductive Meaning (i : Instr) (s : State) : Prop where
  | load (c : Cond) (k : LoadKind) (uv : Bool) (o : MemOperand) (d : RegNum) (p : Bool)
      (h : exec i s = s.whenPassed c fun m => s.loadSingle m k uv o d p) (r : restores i = false)
  | store (c : Cond) (w : Width) (uv : Bool) (o : MemOperand) (d : RegNum) (p : Bool)
      (h : exec i s = s.whenPassed c fun m => s.storeSingle m w uv o d p) (r : restores i = false)
  | ldm (c : Cond) (b : BlockMode) (w : Bool) (n : RegNum) (l : BitVec 16)
      (h : exec i s = s.whenPassed c fun m => s.ldm m b w n l) (r : restores i = false)
  | ldmReturn (c : Cond) (b : BlockMode) (w : Bool) (n : RegNum) (l : BitVec 16)
      (h : exec i s = s.whenPassed c fun m => s.ldmReturn m b w n l) (r : restores i = true)
  | ldmUser (c : Cond) (b : BlockMode) (n : RegNum) (l : BitVec 16)
      (h : exec i s = s.whenPassed c fun m => s.ldmUser m b n l) (r : restores i = false)
  | stm (c : Cond) (b : BlockMode) (w : Bool) (n : RegNum) (l : BitVec 16)
      (h : exec i s = s.whenPassed c fun m => s.stm m b w n l) (r : restores i = false)
  | stmUser (c : Cond) (b : BlockMode) (n : RegNum) (l : BitVec 16)
      (h : exec i s = s.whenPassed c fun m => s.stmUser m b n l) (r : restores i = false)
  | swi (c : Cond)
      (h : exec i s = s.whenPassed c fun _ => .ok (s.enterException .swi (s.pc + 4)))
      (r : restores i = false)
  | swap (c : Cond) (w : Width) (n d x : RegNum)
      (h : exec i s = s.whenPassed c fun m => s.swap m w n d x) (r : restores i = false)
  | clz (c : Cond) (d x : RegNum) (h : exec i s = execClz c d x s) (r : restores i = false)
  | mrc (c : Cond) (crn : BitVec 4) (d : RegNum) (op2 : BitVec 3) (crm : BitVec 4)
      (h : exec i s = execMrc c crn d op2 crm s) (r : restores i = false)
  | mcr (c : Cond) (crn : BitVec 4) (d : RegNum) (op2 : BitVec 3) (crm : BitVec 4)
      (h : exec i s = execMcr c crn d op2 crm s) (r : restores i = false)

/-- Each of the 66 instructions is one of the operations. -/
theorem exec_meaning (i : Instr) (s : State) : Meaning i s := by
  cases i with
  | ldrImmPre => exact .load _ _ _ _ _ _ rfl rfl
  | ldrImmPost => exact .load _ _ _ _ _ _ rfl rfl
  | ldrRegPre => exact .load _ _ _ _ _ _ rfl rfl
  | ldrRegPost => exact .load _ _ _ _ _ _ rfl rfl
  | ldrtImm => exact .load _ _ _ _ _ _ rfl rfl
  | ldrtReg => exact .load _ _ _ _ _ _ rfl rfl
  | ldrbImmPre => exact .load _ _ _ _ _ _ rfl rfl
  | ldrbImmPost => exact .load _ _ _ _ _ _ rfl rfl
  | ldrbRegPre => exact .load _ _ _ _ _ _ rfl rfl
  | ldrbRegPost => exact .load _ _ _ _ _ _ rfl rfl
  | ldrbtImm => exact .load _ _ _ _ _ _ rfl rfl
  | ldrbtReg => exact .load _ _ _ _ _ _ rfl rfl
  | strImmPre => exact .store _ _ _ _ _ _ rfl rfl
  | strImmPost => exact .store _ _ _ _ _ _ rfl rfl
  | strRegPre => exact .store _ _ _ _ _ _ rfl rfl
  | strRegPost => exact .store _ _ _ _ _ _ rfl rfl
  | strtImm => exact .store _ _ _ _ _ _ rfl rfl
  | strtReg => exact .store _ _ _ _ _ _ rfl rfl
  | strbImmPre => exact .store _ _ _ _ _ _ rfl rfl
  | strbImmPost => exact .store _ _ _ _ _ _ rfl rfl
  | strbRegPre => exact .store _ _ _ _ _ _ rfl rfl
  | strbRegPost => exact .store _ _ _ _ _ _ rfl rfl
  | strbtImm => exact .store _ _ _ _ _ _ rfl rfl
  | strbtReg => exact .store _ _ _ _ _ _ rfl rfl
  | ldrhImmPre => exact .load _ _ _ _ _ _ rfl rfl
  | ldrhImmPost => exact .load _ _ _ _ _ _ rfl rfl
  | ldrhRegPre => exact .load _ _ _ _ _ _ rfl rfl
  | ldrhRegPost => exact .load _ _ _ _ _ _ rfl rfl
  | strhImmPre => exact .store _ _ _ _ _ _ rfl rfl
  | strhImmPost => exact .store _ _ _ _ _ _ rfl rfl
  | strhRegPre => exact .store _ _ _ _ _ _ rfl rfl
  | strhRegPost => exact .store _ _ _ _ _ _ rfl rfl
  | ldrsbImmPre => exact .load _ _ _ _ _ _ rfl rfl
  | ldrsbImmPost => exact .load _ _ _ _ _ _ rfl rfl
  | ldrsbRegPre => exact .load _ _ _ _ _ _ rfl rfl
  | ldrsbRegPost => exact .load _ _ _ _ _ _ rfl rfl
  | ldrshImmPre => exact .load _ _ _ _ _ _ rfl rfl
  | ldrshImmPost => exact .load _ _ _ _ _ _ rfl rfl
  | ldrshRegPre => exact .load _ _ _ _ _ _ rfl rfl
  | ldrshRegPost => exact .load _ _ _ _ _ _ rfl rfl
  | ldmia => exact .ldm _ _ _ _ _ rfl rfl
  | ldmib => exact .ldm _ _ _ _ _ rfl rfl
  | ldmda => exact .ldm _ _ _ _ _ rfl rfl
  | ldmdb => exact .ldm _ _ _ _ _ rfl rfl
  | stmia => exact .stm _ _ _ _ _ rfl rfl
  | stmib => exact .stm _ _ _ _ _ rfl rfl
  | stmda => exact .stm _ _ _ _ _ rfl rfl
  | stmdb => exact .stm _ _ _ _ _ rfl rfl
  | ldmiaRet => exact .ldmReturn _ _ _ _ _ rfl rfl
  | ldmibRet => exact .ldmReturn _ _ _ _ _ rfl rfl
  | ldmdaRet => exact .ldmReturn _ _ _ _ _ rfl rfl
  | ldmdbRet => exact .ldmReturn _ _ _ _ _ rfl rfl
  | ldmiaUsr => exact .ldmUser _ _ _ _ rfl rfl
  | ldmibUsr => exact .ldmUser _ _ _ _ rfl rfl
  | ldmdaUsr => exact .ldmUser _ _ _ _ rfl rfl
  | ldmdbUsr => exact .ldmUser _ _ _ _ rfl rfl
  | stmiaUsr => exact .stmUser _ _ _ _ rfl rfl
  | stmibUsr => exact .stmUser _ _ _ _ rfl rfl
  | stmdaUsr => exact .stmUser _ _ _ _ rfl rfl
  | stmdbUsr => exact .stmUser _ _ _ _ rfl rfl
  | swi => exact .swi _ rfl rfl
  | swp => exact .swap _ _ _ _ _ rfl rfl
  | swpb => exact .swap _ _ _ _ _ rfl rfl
  | clz => exact .clz _ _ _ rfl rfl
  | mrc => exact .mrc _ _ _ _ _ rfl rfl
  | mcr => exact .mcr _ _ _ _ _ rfl rfl

end Sys2Proof.Machine
end

