-- ==== Sys2Proof/Laws/Forms.lean ====
section
/-! SUPPORT. The operand forms and register lists in the terms of the claims (spec
40_single_word_byte.md R121 to R123, 42_multiple.md R170, R171). -/

namespace Sys2Proof.Claims

open Sys2Proof.Machine

/-! ## Alignment -/

theorem low_two_bits (a : Word) : a.extractLsb' 0 2 = 0 ↔ a.toNat % 4 = 0 := by
  rw [← BitVec.toNat_inj, BitVec.extractLsb'_toNat]
  simp

theorem aligned_word (a : Word) : aligned a .word = true ↔ a.toNat % 4 = 0 := by
  simp only [aligned, decide_eq_true_eq, low_two_bits]

theorem aligned_half (a : Word) : aligned a .half = true ↔ a.toNat % 2 = 0 := by
  simp only [aligned, decide_eq_true_eq]
  rw [← BitVec.toNat_inj, BitVec.extractLsb'_toNat]
  simp

/-- The checks of a word transfer are passed. -/
theorem checkAlign_word {s : State} {a : Word} : s.checkAlign a .word = .ok () ↔ WordGoes s a := by
  rw [State.checkAlign_ok, aligned_word]
  simp [WordGoes]

/-- The checks of a half-word transfer are passed. -/
theorem checkAlign_half {s : State} {a : Word} : s.checkAlign a .half = .ok () ↔ a.toNat % 2 = 0 := by
  rw [State.checkAlign_ok, aligned_half]
  simp

theorem checkAlign_byte {s : State} {a : Word} : s.checkAlign a .byte = .ok () := by
  rw [State.checkAlign_ok]
  exact .inl rfl

/-! ## Operand forms -/

/-- The memory operand of a form. -/
def Sdt.operand (x : Sdt) (n : RegNum) : MemOperand :=
  match x with
  | .immPre u w k => ⟨n, u, .imm (k.setWidth 32), .pre w⟩
  | .immPost u k => ⟨n, u, .imm (k.setWidth 32), .post⟩
  | .regPre u w amt sh r => ⟨n, u, .scaled r sh amt, .pre w⟩
  | .regPost u amt sh r => ⟨n, u, .scaled r sh amt, .post⟩

def SdtT.operand (x : SdtT) (n : RegNum) : MemOperand :=
  match x with
  | .imm u k => ⟨n, u, .imm (k.setWidth 32), .post⟩
  | .reg u amt sh r => ⟨n, u, .scaled r sh amt, .post⟩

def Hsdt.operand (x : Hsdt) (n : RegNum) : MemOperand :=
  match x with
  | .immPre u w k => ⟨n, u, .imm (k.setWidth 32), .pre w⟩
  | .immPost u k => ⟨n, u, .imm (k.setWidth 32), .post⟩
  | .regPre u w r => ⟨n, u, .reg r, .pre w⟩
  | .regPost u r => ⟨n, u, .reg r, .post⟩

theorem exec_ldr (c : Cond) (n d : RegNum) (x : Sdt) (s : State) : exec (ldr c n d x) s =
    s.whenPassed c fun m => s.loadSingle m .word false (x.operand n) d true := by cases x <;> rfl

theorem exec_ldrb (c : Cond) (n d : RegNum) (x : Sdt) (s : State) : exec (ldrb c n d x) s =
    s.whenPassed c fun m => s.loadSingle m .ubyte false (x.operand n) d false := by cases x <;> rfl

theorem exec_ldrt (c : Cond) (n d : RegNum) (x : SdtT) (s : State) : exec (ldrt c n d x) s =
    s.whenPassed c fun m => s.loadSingle m .word true (x.operand n) d false := by cases x <;> rfl

theorem exec_ldrbt (c : Cond) (n d : RegNum) (x : SdtT) (s : State) : exec (ldrbt c n d x) s =
    s.whenPassed c fun m => s.loadSingle m .ubyte true (x.operand n) d false := by cases x <;> rfl

theorem exec_ldrh (c : Cond) (n d : RegNum) (x : Hsdt) (s : State) : exec (ldrh c n d x) s =
    s.whenPassed c fun m => s.loadSingle m .uhalf false (x.operand n) d false := by cases x <;> rfl

theorem exec_ldrsb (c : Cond) (n d : RegNum) (x : Hsdt) (s : State) : exec (ldrsb c n d x) s =
    s.whenPassed c fun m => s.loadSingle m .sbyte false (x.operand n) d false := by cases x <;> rfl

theorem exec_ldrsh (c : Cond) (n d : RegNum) (x : Hsdt) (s : State) : exec (ldrsh c n d x) s =
    s.whenPassed c fun m => s.loadSingle m .shalf false (x.operand n) d false := by cases x <;> rfl

theorem exec_str (c : Cond) (n d : RegNum) (x : Sdt) (s : State) : exec (str c n d x) s =
    s.whenPassed c fun m => s.storeSingle m .word false (x.operand n) d true := by cases x <;> rfl

theorem exec_strb (c : Cond) (n d : RegNum) (x : Sdt) (s : State) : exec (strb c n d x) s =
    s.whenPassed c fun m => s.storeSingle m .byte false (x.operand n) d false := by cases x <;> rfl

theorem exec_strt (c : Cond) (n d : RegNum) (x : SdtT) (s : State) : exec (strt c n d x) s =
    s.whenPassed c fun m => s.storeSingle m .word true (x.operand n) d false := by cases x <;> rfl

theorem exec_strbt (c : Cond) (n d : RegNum) (x : SdtT) (s : State) : exec (strbt c n d x) s =
    s.whenPassed c fun m => s.storeSingle m .byte true (x.operand n) d false := by cases x <;> rfl

theorem exec_strh (c : Cond) (n d : RegNum) (x : Hsdt) (s : State) : exec (strh c n d x) s =
    s.whenPassed c fun m => s.storeSingle m .half false (x.operand n) d false := by cases x <;> rfl

/-- A memory operand means what a form of the claims says. -/
structure Denotes (o : MemOperand) (f : Form) (s : State) (m : Mode) (n : RegNum) : Prop where
  base : o.base = n
  wb : o.writesBack = f.wb
  index : o.offset.reg? = f.index
  indexed : s.indexed m o = f.indexed (s.readReg m n)
  address : s.address m o = f.addr (s.readReg m n)

theorem Sdt.denotes (x : Sdt) (s : State) (m : Mode) (n : RegNum) :
    Denotes (x.operand n) (x.form s m) s m n := by
  cases x <;> exact ⟨rfl, rfl, rfl, rfl, rfl⟩

theorem SdtT.denotes (x : SdtT) (s : State) (m : Mode) (n : RegNum) :
    Denotes (x.operand n) (x.form s m) s m n := by
  cases x <;> exact ⟨rfl, rfl, rfl, rfl, rfl⟩

theorem Hsdt.denotes (x : Hsdt) (s : State) (m : Mode) (n : RegNum) :
    Denotes (x.operand n) (x.form s m) s m n := by
  cases x <;> exact ⟨rfl, rfl, rfl, rfl, rfl⟩

/-- The T forms are post-indexed: the address is the base. -/
theorem SdtT.addr (x : SdtT) (s : State) (m : Mode) (base : Word) : (x.form s m).addr base = base := by
  cases x <;> rfl

/-- The combinations of R98, in both terms. -/
theorem Denotes.predictable {o : MemOperand} {f : Form} {s : State} {m : Mode} {n d : RegNum}
    {p : Bool} (h : Denotes o f s m n) :
    o.unpredictable d p = false ↔ f.Legal n d ∧ (d = 15 → p = true) := by
  simp only [MemOperand.unpredictable, h.index, h.wb, h.base, Bool.or_eq_false_iff,
    Bool.and_eq_false_iff, decide_eq_false_iff_not, Bool.not_eq_false']
  constructor
  · rintro ⟨⟨⟨⟨h1, h2⟩, h3⟩, h4⟩, h5⟩
    refine ⟨⟨h1, fun hw => ⟨h2.resolve_left ?_, h3.resolve_left ?_, h4.resolve_left ?_⟩⟩,
      fun e => h5.resolve_left fun ne => ne e⟩ <;> simp [hw]
  · rintro ⟨⟨h1, h2⟩, h3⟩
    cases hw : f.wb with
    | false =>
      refine ⟨⟨⟨⟨h1, .inl rfl⟩, .inl rfl⟩, .inl rfl⟩, ?_⟩
      by_cases e : d = 15
      · exact .inr (h3 e)
      · exact .inl e
    | true =>
      obtain ⟨a, b, c⟩ := h2 hw
      refine ⟨⟨⟨⟨h1, .inr a⟩, .inr b⟩, .inr c⟩, ?_⟩
      by_cases e : d = 15
      · exact .inr (h3 e)
      · exact .inl e

/-- The base written back, in both terms. -/
theorem Denotes.writeBack {o : MemOperand} {f : Form} {s : State} {m : Mode} {n : RegNum}
    (h : Denotes o f s m n) (t : State) :
    t.writeBack m o (s.indexed m o) = f.writeBack t m n (s.readReg m n) := by
  simp only [State.writeBack, Form.writeBack, h.wb, h.base, h.indexed]

/-- A single load that is not refused, not aborted and has its bytes: the state after it (R124). -/
theorem Denotes.loadSingle {o : MemOperand} {f : Form} {s : State} {m : Mode} {n d : RegNum}
    {k : LoadKind} {uv p : Bool} {v : Word} (h : Denotes o f s m n) (hl : f.Legal n d)
    (hd : d ≠ 15) (hp : s.pc ≠ 0xFFFFFFFC)
    (ha : s.checkAlign (f.addr (s.readReg m n)) k.width = .ok ())
    (hv : CanRead s (accessPriv m uv) (accessAddr (f.addr (s.readReg m n)) k.width) k.width v) :
    s.loadSingle m k uv o d p = .ok (f.loaded s m n d (k.extend (f.addr (s.readReg m n)) v)) := by
  rw [State.loadSingle_ok, h.address]
  refine ⟨h.predictable.mpr ⟨hl, fun e => absurd e hd⟩, ha, v,
    State.memRead_ok.mpr ⟨hv.permitted, hv.value⟩, ?_⟩
  rw [State.finishLoad_ok]
  have hpc : (s.writeBack m o (s.indexed m o)).pc = s.pc := State.writeBack_pc ..
  refine .inr ⟨hd, by rwa [hpc], ?_⟩
  rw [hpc, h.writeBack]
  rfl

/-- A single store that is not refused and not aborted: the state after it (R125). -/
theorem Denotes.storeSingle {o : MemOperand} {f : Form} {s : State} {m : Mode} {n d : RegNum}
    {w : Width} {uv p : Bool} (h : Denotes o f s m n) (hl : f.Legal n d) (hd : d = 15 → p = true)
    (hp : s.pc ≠ 0xFFFFFFFC) (ha : s.checkAlign (f.addr (s.readReg m n)) w = .ok ())
    (hv : s.denied (accessAddr (f.addr (s.readReg m n)) w) w .write (accessPriv m uv) = false) :
    s.storeSingle m w uv o d p =
      .ok (f.stored s m n (accessAddr (f.addr (s.readReg m n)) w) w (s.storedReg m d)) := by
  rw [State.storeSingle_ok, h.address]
  refine ⟨h.predictable.mpr ⟨hl, hd⟩, ha, hv, hp, ?_⟩
  rw [h.writeBack]
  rfl

/-! ## Register lists -/

theorem regsOf_eq (list : BitVec 16) :
    regsOf list = ((List.range 16).map (BitVec.ofNat 4)).filter fun i => list.getLsbD i.toNat := rfl

/-- The list of the registers below a number, and how many they are (R90). -/
theorem length_below (list : BitVec 16) (k : Nat) (hk : k ≤ 16) :
    (((List.range k).map (BitVec.ofNat 4)).filter fun i => list.getLsbD i.toNat).length =
      countBelow list k := by
  induction k with
  | zero => rfl
  | succ k ih =>
    rw [List.range_succ, List.map_append, List.filter_append, List.length_append, ih (by omega),
      countBelow]
    have e : (BitVec.ofNat 4 k).toNat = k := by simp; omega
    cases h : list.getLsbD k <;> simp [List.filter, e, h]

/-- The list has as many registers as it has 1 bits. -/
theorem length_regsOf (list : BitVec 16) : (regsOf list).length = count list :=
  length_below list 16 (by omega)

theorem mem_regsOf {list : BitVec 16} {i : RegNum} : i ∈ regsOf list ↔ listed list i = true := by
  rw [regsOf_eq, List.mem_filter, List.mem_map]
  constructor
  · exact fun h => h.2
  · exact fun h => ⟨⟨i.toNat, List.mem_range.mpr i.isLt, by simp⟩, h⟩

/-- No register is listed twice. -/
theorem nodup_regsOf (list : BitVec 16) : (regsOf list).Nodup := by
  unfold regsOf
  exact List.Nodup.filter _ (by decide)

/-- A listed register stands at the place its rank says. -/
theorem regsOf_rank {list : BitVec 16} {i : RegNum} (h : listed list i = true) :
    (regsOf list)[countBelow list i.toNat]? = some i := by
  have hi := i.isLt
  have split : List.range 16 = List.range i.toNat ++ i.toNat ::
      (List.range (15 - i.toNat)).map (· + (i.toNat + 1)) := by
    have : 16 = i.toNat + (1 + (15 - i.toNat)) := by omega
    rw [this, List.range_add]
    congr 1
    rw [Nat.add_comm 1, List.range_succ_eq_map]
    simp only [List.map_cons, Nat.add_zero, List.map_map]
    congr 1
    apply List.map_congr_left
    intro k _
    simp only [Function.comp]
    omega
  rw [regsOf_eq, split, List.map_append, List.filter_append, List.map_cons,
    List.filter_cons_of_pos (by simpa [listed] using h)]
  have hl := length_below list i.toNat (by omega)
  rw [List.getElem?_append_right (by omega), hl]
  simp

/-- And what stands at a place is a listed register of that rank. -/
theorem rank_regsOf {list : BitVec 16} {i : RegNum} {k : Nat} (h : (regsOf list)[k]? = some i) :
    listed list i = true ∧ countBelow list i.toNat = k := by
  have hm : listed list i = true := mem_regsOf.mp (List.mem_of_getElem? h)
  have h' := regsOf_rank hm
  refine ⟨hm, ?_⟩
  obtain ⟨hk, e⟩ := List.getElem?_eq_some_iff.mp h
  obtain ⟨hk', e'⟩ := List.getElem?_eq_some_iff.mp h'
  exact ((nodup_regsOf list).getElem_inj_iff.mp (e.trans e'.symm)).symm

/-- The rank rises with the register number. -/
theorem countBelow_mono (list : BitVec 16) {j k : Nat} (h : j ≤ k) :
    countBelow list j ≤ countBelow list k := by
  induction h with
  | refl => exact le_refl _
  | step _ ih => rw [countBelow]; omega

theorem countBelow_le (list : BitVec 16) (k : Nat) : countBelow list k ≤ k := by
  induction k with
  | zero => exact le_refl _
  | succ k ih => rw [countBelow]; split <;> omega

/-- A listed register's rank is below the count, and two of them differ. -/
theorem rank_lt_count {list : BitVec 16} {i : RegNum} (h : listed list i = true) :
    countBelow list i.toNat < count list := by
  have h1 : countBelow list (i.toNat + 1) ≤ count list := countBelow_mono list i.isLt
  have h2 : list.getLsbD i.toNat = true := h
  rw [countBelow, h2] at h1
  simp only [if_true] at h1
  omega

theorem rank_lt {list : BitVec 16} {i j : RegNum} (h : listed list i = true)
    (hij : i.toNat < j.toNat) : countBelow list i.toNat < countBelow list j.toNat := by
  have h1 : countBelow list (i.toNat + 1) ≤ countBelow list j.toNat := countBelow_mono list hij
  have h2 : list.getLsbD i.toNat = true := h
  rw [countBelow, h2] at h1
  simp only [if_true] at h1
  omega

theorem count_pos {list : BitVec 16} (h : list ≠ 0) : 0 < count list := by
  by_contra hc
  apply h
  apply BitVec.eq_of_getLsbD_eq
  intro k hk
  cases hb : list.getLsbD k with
  | false => simp
  | true =>
    have h1 : countBelow list (k + 1) ≤ count list := countBelow_mono list hk
    rw [countBelow, hb] at h1
    simp only [if_true] at h1
    omega

theorem count_le (list : BitVec 16) : count list ≤ 16 := countBelow_le list 16

theorem four_mul_ofNat (k : Nat) : 4 * BitVec.ofNat 32 k = BitVec.ofNat 32 (4 * k) := by
  apply BitVec.eq_of_toNat_eq
  simp [BitVec.toNat_mul]

theorem start_eq (b : BlockMode) (base : Word) (list : BitVec 16) :
    b.start base (regsOf list).length = startOf b base list := by
  cases b <;> simp only [BlockMode.start, startOf, length_regsOf, four_mul_ofNat]

theorem newBase_eq (b : BlockMode) (base : Word) (list : BitVec 16) :
    b.newBase base (regsOf list).length = newBase b base list := by
  cases b <;> simp only [BlockMode.newBase, newBase, length_regsOf, four_mul_ofNat]

/-- The range of words is in the address space, in both terms, for an aligned base. -/
theorem wraps_iff (b : BlockMode) (base : Word) (list : BitVec 16) (h : base.toNat % 4 = 0) :
    b.wraps base (regsOf list).length = false ↔ Fits b base list := by
  have hb := base.isLt
  unfold BlockMode.wraps
  rw [length_regsOf, Bool.or_eq_false_iff, decide_eq_false_iff_not, decide_eq_false_iff_not]
  cases b <;> simp only [BlockMode.startInt, Fits] <;> omega

theorem head_regsOf {list : BitVec 16} {n : RegNum} (h : listed list n = true) :
    (regsOf list).head? = some n ↔ ∀ j : RegNum, j.toNat < n.toNat → listed list j = false := by
  rw [List.head?_eq_getElem?]
  constructor
  · intro h0 j hj
    have hn := (rank_regsOf h0).2
    cases hl : listed list j with
    | false => rfl
    | true => have := rank_lt hl hj; omega
  · intro hall
    have hz : countBelow list n.toNat = 0 := by
      have key : ∀ k, k ≤ n.toNat → countBelow list k = 0 := by
        intro k hk
        induction k with
        | zero => rfl
        | succ k ih =>
          have hk' : k < 16 := by have := n.isLt; omega
          have hj := hall (BitVec.ofNat 4 k) (by simp; omega)
          have e : (BitVec.ofNat 4 k).toNat = k := by simp; omega
          unfold listed at hj
          rw [e] at hj
          rw [countBelow, ih (by omega), hj]
          rfl
      exact key _ (le_refl _)
    have := regsOf_rank h
    rwa [hz] at this

/-- The base may be in the list, in both terms (R182). -/
theorem baseListed_iff (l w : Bool) (n : RegNum) (list : BitVec 16) :
    baseListed l w n list = false ↔ BaseOk l w n list := by
  unfold baseListed BaseOk
  cases w
  · simp
  · cases hn : listed list n
    · simp [show list.getLsbD n.toNat = false from hn]
    · have hh := head_regsOf hn
      cases l
      · simp only [show list.getLsbD n.toNat = true from hn, Bool.and_self, Bool.true_and,
          Bool.false_or, decide_eq_false_iff_not, ne_eq, not_not, forall_const, true_and]
        exact hh
      · simp [show list.getLsbD n.toNat = true from hn]

/-- The checks of a multiple transfer are passed, in the terms of the claims. -/
theorem checkBlock_of_ready {s : State} {m : Mode} {b : BlockMode} {l w : Bool} {n : RegNum}
    {list : BitVec 16} (h : BlockReady s m b n list) (hb : BaseOk l w n list) :
    s.checkBlock l b w n list (s.readReg m n) = .ok () :=
  State.checkBlock_ok.mpr ⟨h.nonempty, h.base, (baseListed_iff ..).mpr hb,
    (aligned_word _).mpr h.aligned, (wraps_iff _ _ _ h.aligned).mpr h.fits⟩

/-- The word of the register at a place of the list. -/
theorem wordOf_rank {b : BlockMode} {base : Word} {list : BitVec 16} {i : RegNum} {k : Nat}
    (h : (regsOf list)[k]? = some i) :
    b.start base (regsOf list).length + 4 * BitVec.ofNat 32 k = wordOf b base list i := by
  rw [start_eq, four_mul_ofNat, wordOf, (rank_regsOf h).2]

end Sys2Proof.Claims
end

