-- ==== Sys2Proof/Laws/Exceptions.lean ====
section
/-! SUPPORT. Taking an exception (spec 60_exceptions.md R220, R223, R225), in the terms of the
claims. -/

namespace Sys2Proof.Machine

open Sys2Proof.Claims

/-! ## The new CPSR -/

/-- What an exception sets in the low byte of the CPSR. -/
def Exception.setBits (e : Exception) : Word :=
  (e.mode.bits.setWidth 32 ||| 0x80) ||| (if e.setsF then 0x40 else 0)

theorem entryCpsr_eq (e : Exception) (old : Word) :
    e.entryCpsr old = (old &&& 0xFFFFFFC0) ||| e.setBits := by
  unfold Exception.entryCpsr Exception.setBits
  exact BitVec.or_assoc ..

theorem entryCpsr_field (e : Exception) (old : Word) (lo len : Nat) :
    (e.entryCpsr old).extractLsb' lo len =
      (old.extractLsb' lo len &&& (0xFFFFFFC0 : Word).extractLsb' lo len) |||
        e.setBits.extractLsb' lo len := by
  rw [entryCpsr_eq, BitVec.extractLsb'_or, BitVec.extractLsb'_and]

theorem entryCpsr_bit (e : Exception) (old : Word) (k : Nat) :
    (e.entryCpsr old).getLsbD k =
      ((old.getLsbD k && (0xFFFFFFC0 : Word).getLsbD k) || e.setBits.getLsbD k) := by
  rw [entryCpsr_eq, BitVec.getLsbD_or, BitVec.getLsbD_and]

theorem psrMode_entryCpsr (e : Exception) (old : Word) :
    psrMode? (e.entryCpsr old) = some e.mode := by
  unfold psrMode?
  rw [entryCpsr_field, show (0xFFFFFFC0 : Word).extractLsb' 0 5 = 0#5 by decide, BitVec.and_zero,
    BitVec.zero_or]
  cases e <;> decide

theorem psrT_entryCpsr (e : Exception) (old : Word) : psrT (e.entryCpsr old) = false := by
  unfold psrT
  rw [entryCpsr_bit, show (0xFFFFFFC0 : Word).getLsbD 5 = false by decide, Bool.and_false,
    Bool.false_or]
  cases e <;> decide

theorem psrI_entryCpsr (e : Exception) (old : Word) : psrI (e.entryCpsr old) = true := by
  unfold psrI
  rw [entryCpsr_bit, show e.setBits.getLsbD 7 = true by cases e <;> decide, Bool.or_true]

theorem psrF_entryCpsr (e : Exception) (old : Word) :
    psrF (e.entryCpsr old) = (e.setsF || psrF old) := by
  unfold psrF
  rw [entryCpsr_bit, show (0xFFFFFFC0 : Word).getLsbD 6 = true by decide, Bool.and_true,
    show e.setBits.getLsbD 6 = e.setsF by cases e <;> decide, Bool.or_comm]

theorem flags_entryCpsr (e : Exception) (old : Word) :
    (e.entryCpsr old).extractLsb' 8 24 = old.extractLsb' 8 24 := by
  rw [entryCpsr_field, show (0xFFFFFFC0 : Word).extractLsb' 8 24 = BitVec.allOnes 24 by decide,
    BitVec.and_allOnes, show e.setBits.extractLsb' 8 24 = 0#24 by cases e <;> decide,
    BitVec.or_zero]

/-! ## The entry -/

theorem physReg_fourteen (m : Mode) : physReg m 14 = some m.lr := by cases m <;> rfl

/-- Exception entry does what R223 lists and nothing else. -/
theorem enters_enterException (s : State) (e : Exception) (ret : Word) :
    Enters s (s.enterException e ret) e.mode (Config.vectorBase + e.vector) ret e.setsF
      s.abortInfo := by
  have hg : (s.enterException e ret).gpr = (s.setPhys e.mode.lr ret).gpr := by
    cases e <;> rfl
  have hp : ∀ q, (s.enterException e ret).getPhys q = (s.setPhys e.mode.lr ret).getPhys q := by
    intro q; unfold State.getPhys; rw [hg]
  have hc : (s.enterException e ret).cpsr = e.entryCpsr s.cpsr := by cases e <;> rfl
  refine
    { mode := ?_, pc := rfl, link := ?_, saved := ?_, thumb := ?_, irqMask := ?_, fiqMask := ?_,
      flags := ?_, regs := ?_, spsrs := ?_, bytes := ?_, written := ?_, cp15c1 := ?_,
      abortInfo := ?_, denials := ?_, params := ?_, lines := ?_ }
  · unfold State.mode?; rw [hc]; exact psrMode_entryCpsr e _
  · rw [readReg_eq (physReg_fourteen _), hp, State.getPhys_setPhys_self]
  · exact State.spsr?_setSpsr_self _ _ _ (by cases e <;> rfl)
  · rw [hc]; exact psrT_entryCpsr e _
  · rw [hc]; exact psrI_entryCpsr e _
  · rw [hc]; exact psrF_entryCpsr e _
  · rw [hc]; exact flags_entryCpsr e _
  · intro q hq
    rw [hp, State.getPhys_setPhys_ne _ _ fun h => hq (by rw [physReg_fourteen, h])]
  · intro k hk
    exact State.spsr?_setSpsr_ne _ _ _ _ hk
  · intro a; cases e <;> rfl
  all_goals cases e <;> rfl

/-- A Data Abort records its information and enters Abort mode (R225). -/
theorem dataAborts_enterDataAbort (s : State) (i : AbortInfo) :
    Enters s (s.enterDataAbort i) .abt 0x10 (s.pc + 8) false (some i) := by
  have h := enters_enterException (s.setAbort i) .dataAbort (s.pc + 8)
  exact
    { mode := h.mode, pc := h.pc, link := h.link, saved := h.saved, thumb := h.thumb,
      irqMask := h.irqMask, fiqMask := h.fiqMask, flags := h.flags, regs := h.regs,
      spsrs := fun k hk => h.spsrs k hk, bytes := h.bytes, written := h.written, cp15c1 := h.cp15c1,
      abortInfo := h.abortInfo, denials := h.denials, params := h.params, lines := h.lines }

end Sys2Proof.Machine
end

