-- ==== Sys2Proof/Laws/PerInstr.lean ====
section
/-! SUPPORT. The lemmas about every instruction, one for each constructor: the word of a well-formed
instruction has the bits its row of opcode_table.json asks for (spec 30_encoding.md R96). -/

namespace Sys2Proof.Laws.EncodeMatchesRow

/-- `(encode i AND mask) = match` for the row of the instruction. -/
def Statement (i : Instr) : Prop :=
  i.wellFormed = true → encode i &&& i.row.1 = i.row.2

theorem ldrImmPre (c : Cond) (u : Bool) (w : Bool) (n : RegNum) (d : RegNum) (imm : BitVec 12) :
    Statement (.ldrImmPre c u w n d imm) := fun _ => sdtImm_pre c true u false w true n d imm

theorem ldrImmPost (c : Cond) (u : Bool) (n : RegNum) (d : RegNum) (imm : BitVec 12) :
    Statement (.ldrImmPost c u n d imm) := fun _ => sdtImm_post c false u false false true n d imm

theorem ldrRegPre (c : Cond) (u : Bool) (w : Bool) (n : RegNum) (d : RegNum) (amt : BitVec 5) (sh : ShiftKind) (m : RegNum) :
    Statement (.ldrRegPre c u w n d amt sh m) := fun _ => sdtReg_pre c true u false w true n d amt sh m

theorem ldrRegPost (c : Cond) (u : Bool) (n : RegNum) (d : RegNum) (amt : BitVec 5) (sh : ShiftKind) (m : RegNum) :
    Statement (.ldrRegPost c u n d amt sh m) := fun _ => sdtReg_post c false u false false true n d amt sh m

theorem ldrtImm (c : Cond) (u : Bool) (n : RegNum) (d : RegNum) (imm : BitVec 12) :
    Statement (.ldrtImm c u n d imm) := fun _ => sdtImm_post c false u false true true n d imm

theorem ldrtReg (c : Cond) (u : Bool) (n : RegNum) (d : RegNum) (amt : BitVec 5) (sh : ShiftKind) (m : RegNum) :
    Statement (.ldrtReg c u n d amt sh m) := fun _ => sdtReg_post c false u false true true n d amt sh m

theorem ldrbImmPre (c : Cond) (u : Bool) (w : Bool) (n : RegNum) (d : RegNum) (imm : BitVec 12) :
    Statement (.ldrbImmPre c u w n d imm) := fun _ => sdtImm_pre c true u true w true n d imm

theorem ldrbImmPost (c : Cond) (u : Bool) (n : RegNum) (d : RegNum) (imm : BitVec 12) :
    Statement (.ldrbImmPost c u n d imm) := fun _ => sdtImm_post c false u true false true n d imm

theorem ldrbRegPre (c : Cond) (u : Bool) (w : Bool) (n : RegNum) (d : RegNum) (amt : BitVec 5) (sh : ShiftKind) (m : RegNum) :
    Statement (.ldrbRegPre c u w n d amt sh m) := fun _ => sdtReg_pre c true u true w true n d amt sh m

theorem ldrbRegPost (c : Cond) (u : Bool) (n : RegNum) (d : RegNum) (amt : BitVec 5) (sh : ShiftKind) (m : RegNum) :
    Statement (.ldrbRegPost c u n d amt sh m) := fun _ => sdtReg_post c false u true false true n d amt sh m

theorem ldrbtImm (c : Cond) (u : Bool) (n : RegNum) (d : RegNum) (imm : BitVec 12) :
    Statement (.ldrbtImm c u n d imm) := fun _ => sdtImm_post c false u true true true n d imm

theorem ldrbtReg (c : Cond) (u : Bool) (n : RegNum) (d : RegNum) (amt : BitVec 5) (sh : ShiftKind) (m : RegNum) :
    Statement (.ldrbtReg c u n d amt sh m) := fun _ => sdtReg_post c false u true true true n d amt sh m

theorem strImmPre (c : Cond) (u : Bool) (w : Bool) (n : RegNum) (d : RegNum) (imm : BitVec 12) :
    Statement (.strImmPre c u w n d imm) := fun _ => sdtImm_pre c true u false w false n d imm

theorem strImmPost (c : Cond) (u : Bool) (n : RegNum) (d : RegNum) (imm : BitVec 12) :
    Statement (.strImmPost c u n d imm) := fun _ => sdtImm_post c false u false false false n d imm

theorem strRegPre (c : Cond) (u : Bool) (w : Bool) (n : RegNum) (d : RegNum) (amt : BitVec 5) (sh : ShiftKind) (m : RegNum) :
    Statement (.strRegPre c u w n d amt sh m) := fun _ => sdtReg_pre c true u false w false n d amt sh m

theorem strRegPost (c : Cond) (u : Bool) (n : RegNum) (d : RegNum) (amt : BitVec 5) (sh : ShiftKind) (m : RegNum) :
    Statement (.strRegPost c u n d amt sh m) := fun _ => sdtReg_post c false u false false false n d amt sh m

theorem strtImm (c : Cond) (u : Bool) (n : RegNum) (d : RegNum) (imm : BitVec 12) :
    Statement (.strtImm c u n d imm) := fun _ => sdtImm_post c false u false true false n d imm

theorem strtReg (c : Cond) (u : Bool) (n : RegNum) (d : RegNum) (amt : BitVec 5) (sh : ShiftKind) (m : RegNum) :
    Statement (.strtReg c u n d amt sh m) := fun _ => sdtReg_post c false u false true false n d amt sh m

theorem strbImmPre (c : Cond) (u : Bool) (w : Bool) (n : RegNum) (d : RegNum) (imm : BitVec 12) :
    Statement (.strbImmPre c u w n d imm) := fun _ => sdtImm_pre c true u true w false n d imm

theorem strbImmPost (c : Cond) (u : Bool) (n : RegNum) (d : RegNum) (imm : BitVec 12) :
    Statement (.strbImmPost c u n d imm) := fun _ => sdtImm_post c false u true false false n d imm

theorem strbRegPre (c : Cond) (u : Bool) (w : Bool) (n : RegNum) (d : RegNum) (amt : BitVec 5) (sh : ShiftKind) (m : RegNum) :
    Statement (.strbRegPre c u w n d amt sh m) := fun _ => sdtReg_pre c true u true w false n d amt sh m

theorem strbRegPost (c : Cond) (u : Bool) (n : RegNum) (d : RegNum) (amt : BitVec 5) (sh : ShiftKind) (m : RegNum) :
    Statement (.strbRegPost c u n d amt sh m) := fun _ => sdtReg_post c false u true false false n d amt sh m

theorem strbtImm (c : Cond) (u : Bool) (n : RegNum) (d : RegNum) (imm : BitVec 12) :
    Statement (.strbtImm c u n d imm) := fun _ => sdtImm_post c false u true true false n d imm

theorem strbtReg (c : Cond) (u : Bool) (n : RegNum) (d : RegNum) (amt : BitVec 5) (sh : ShiftKind) (m : RegNum) :
    Statement (.strbtReg c u n d amt sh m) := fun _ => sdtReg_post c false u true true false n d amt sh m

theorem ldrhImmPre (c : Cond) (u : Bool) (w : Bool) (n : RegNum) (d : RegNum) (imm : BitVec 8) :
    Statement (.ldrhImmPre c u w n d imm) := fun _ => hsdtImm_pre c true u w true false true n d imm

theorem ldrhImmPost (c : Cond) (u : Bool) (n : RegNum) (d : RegNum) (imm : BitVec 8) :
    Statement (.ldrhImmPost c u n d imm) := fun _ => hsdtImm_post c false u false true false true n d imm

theorem ldrhRegPre (c : Cond) (u : Bool) (w : Bool) (n : RegNum) (d : RegNum) (m : RegNum) :
    Statement (.ldrhRegPre c u w n d m) := fun _ => hsdtReg_pre c true u w true false true n d m

theorem ldrhRegPost (c : Cond) (u : Bool) (n : RegNum) (d : RegNum) (m : RegNum) :
    Statement (.ldrhRegPost c u n d m) := fun _ => hsdtReg_post c false u false true false true n d m

theorem strhImmPre (c : Cond) (u : Bool) (w : Bool) (n : RegNum) (d : RegNum) (imm : BitVec 8) :
    Statement (.strhImmPre c u w n d imm) := fun _ => hsdtImm_pre c true u w false false true n d imm

theorem strhImmPost (c : Cond) (u : Bool) (n : RegNum) (d : RegNum) (imm : BitVec 8) :
    Statement (.strhImmPost c u n d imm) := fun _ => hsdtImm_post c false u false false false true n d imm

theorem strhRegPre (c : Cond) (u : Bool) (w : Bool) (n : RegNum) (d : RegNum) (m : RegNum) :
    Statement (.strhRegPre c u w n d m) := fun _ => hsdtReg_pre c true u w false false true n d m

theorem strhRegPost (c : Cond) (u : Bool) (n : RegNum) (d : RegNum) (m : RegNum) :
    Statement (.strhRegPost c u n d m) := fun _ => hsdtReg_post c false u false false false true n d m

theorem ldrsbImmPre (c : Cond) (u : Bool) (w : Bool) (n : RegNum) (d : RegNum) (imm : BitVec 8) :
    Statement (.ldrsbImmPre c u w n d imm) := fun _ => hsdtImm_pre c true u w true true false n d imm

theorem ldrsbImmPost (c : Cond) (u : Bool) (n : RegNum) (d : RegNum) (imm : BitVec 8) :
    Statement (.ldrsbImmPost c u n d imm) := fun _ => hsdtImm_post c false u false true true false n d imm

theorem ldrsbRegPre (c : Cond) (u : Bool) (w : Bool) (n : RegNum) (d : RegNum) (m : RegNum) :
    Statement (.ldrsbRegPre c u w n d m) := fun _ => hsdtReg_pre c true u w true true false n d m

theorem ldrsbRegPost (c : Cond) (u : Bool) (n : RegNum) (d : RegNum) (m : RegNum) :
    Statement (.ldrsbRegPost c u n d m) := fun _ => hsdtReg_post c false u false true true false n d m

theorem ldrshImmPre (c : Cond) (u : Bool) (w : Bool) (n : RegNum) (d : RegNum) (imm : BitVec 8) :
    Statement (.ldrshImmPre c u w n d imm) := fun _ => hsdtImm_pre c true u w true true true n d imm

theorem ldrshImmPost (c : Cond) (u : Bool) (n : RegNum) (d : RegNum) (imm : BitVec 8) :
    Statement (.ldrshImmPost c u n d imm) := fun _ => hsdtImm_post c false u false true true true n d imm

theorem ldrshRegPre (c : Cond) (u : Bool) (w : Bool) (n : RegNum) (d : RegNum) (m : RegNum) :
    Statement (.ldrshRegPre c u w n d m) := fun _ => hsdtReg_pre c true u w true true true n d m

theorem ldrshRegPost (c : Cond) (u : Bool) (n : RegNum) (d : RegNum) (m : RegNum) :
    Statement (.ldrshRegPost c u n d m) := fun _ => hsdtReg_post c false u false true true true n d m

theorem ldmia (c : Cond) (w : Bool) (n : RegNum) (list : BitVec 16) :
    Statement (.ldmia c w n list) := fun _ => bdt_plain c false true false w true n list

theorem ldmib (c : Cond) (w : Bool) (n : RegNum) (list : BitVec 16) :
    Statement (.ldmib c w n list) := fun _ => bdt_plain c true true false w true n list

theorem ldmda (c : Cond) (w : Bool) (n : RegNum) (list : BitVec 16) :
    Statement (.ldmda c w n list) := fun _ => bdt_plain c false false false w true n list

theorem ldmdb (c : Cond) (w : Bool) (n : RegNum) (list : BitVec 16) :
    Statement (.ldmdb c w n list) := fun _ => bdt_plain c true false false w true n list

theorem stmia (c : Cond) (w : Bool) (n : RegNum) (list : BitVec 16) :
    Statement (.stmia c w n list) := fun _ => bdt_plain c false true false w false n list

theorem stmib (c : Cond) (w : Bool) (n : RegNum) (list : BitVec 16) :
    Statement (.stmib c w n list) := fun _ => bdt_plain c true true false w false n list

theorem stmda (c : Cond) (w : Bool) (n : RegNum) (list : BitVec 16) :
    Statement (.stmda c w n list) := fun _ => bdt_plain c false false false w false n list

theorem stmdb (c : Cond) (w : Bool) (n : RegNum) (list : BitVec 16) :
    Statement (.stmdb c w n list) := fun _ => bdt_plain c true false false w false n list

theorem ldmiaRet (c : Cond) (w : Bool) (n : RegNum) (list : BitVec 16) :
    Statement (.ldmiaRet c w n list) := fun h =>
  (bdt_ret c false true true w true n list).trans (by rw [show list.getLsbD 15 = true from h]; rfl)

theorem ldmibRet (c : Cond) (w : Bool) (n : RegNum) (list : BitVec 16) :
    Statement (.ldmibRet c w n list) := fun h =>
  (bdt_ret c true true true w true n list).trans (by rw [show list.getLsbD 15 = true from h]; rfl)

theorem ldmdaRet (c : Cond) (w : Bool) (n : RegNum) (list : BitVec 16) :
    Statement (.ldmdaRet c w n list) := fun h =>
  (bdt_ret c false false true w true n list).trans (by rw [show list.getLsbD 15 = true from h]; rfl)

theorem ldmdbRet (c : Cond) (w : Bool) (n : RegNum) (list : BitVec 16) :
    Statement (.ldmdbRet c w n list) := fun h =>
  (bdt_ret c true false true w true n list).trans (by rw [show list.getLsbD 15 = true from h]; rfl)

theorem ldmiaUsr (c : Cond) (n : RegNum) (list : BitVec 16) :
    Statement (.ldmiaUsr c n list) := fun h =>
  (bdt_usr c false true true false true n list).trans (by rw [show list.getLsbD 15 = false from by simpa [Instr.wellFormed] using h]; rfl)

theorem ldmibUsr (c : Cond) (n : RegNum) (list : BitVec 16) :
    Statement (.ldmibUsr c n list) := fun h =>
  (bdt_usr c true true true false true n list).trans (by rw [show list.getLsbD 15 = false from by simpa [Instr.wellFormed] using h]; rfl)

theorem ldmdaUsr (c : Cond) (n : RegNum) (list : BitVec 16) :
    Statement (.ldmdaUsr c n list) := fun h =>
  (bdt_usr c false false true false true n list).trans (by rw [show list.getLsbD 15 = false from by simpa [Instr.wellFormed] using h]; rfl)

theorem ldmdbUsr (c : Cond) (n : RegNum) (list : BitVec 16) :
    Statement (.ldmdbUsr c n list) := fun h =>
  (bdt_usr c true false true false true n list).trans (by rw [show list.getLsbD 15 = false from by simpa [Instr.wellFormed] using h]; rfl)

theorem stmiaUsr (c : Cond) (n : RegNum) (list : BitVec 16) :
    Statement (.stmiaUsr c n list) := fun h =>
  (bdt_usr c false true true false false n list).trans (by rw [show list.getLsbD 15 = false from by simpa [Instr.wellFormed] using h]; rfl)

theorem stmibUsr (c : Cond) (n : RegNum) (list : BitVec 16) :
    Statement (.stmibUsr c n list) := fun h =>
  (bdt_usr c true true true false false n list).trans (by rw [show list.getLsbD 15 = false from by simpa [Instr.wellFormed] using h]; rfl)

theorem stmdaUsr (c : Cond) (n : RegNum) (list : BitVec 16) :
    Statement (.stmdaUsr c n list) := fun h =>
  (bdt_usr c false false true false false n list).trans (by rw [show list.getLsbD 15 = false from by simpa [Instr.wellFormed] using h]; rfl)

theorem stmdbUsr (c : Cond) (n : RegNum) (list : BitVec 16) :
    Statement (.stmdbUsr c n list) := fun h =>
  (bdt_usr c true false true false false n list).trans (by rw [show list.getLsbD 15 = false from by simpa [Instr.wellFormed] using h]; rfl)

theorem swi (c : Cond) (imm : BitVec 24) :
    Statement (.swi c imm) := fun _ =>
  show _ &&& (0#4 ++ 0b1111#4 ++ 0#24 : Word) = _ from
    and_fields (and_fields BitVec.and_zero rfl) BitVec.and_zero

theorem swp (c : Cond) (n : RegNum) (d : RegNum) (m : RegNum) :
    Statement (.swp c n d m) := fun _ =>
  show _ &&& (0#4 ++ 0b11111111#8 ++ 0#4 ++ 0#4 ++ 0b11111111#8 ++ 0#4 : Word) = _ from
    and_fields (and_fields (and_fields (and_fields (and_fields BitVec.and_zero rfl) BitVec.and_zero) BitVec.and_zero) rfl) BitVec.and_zero

theorem swpb (c : Cond) (n : RegNum) (d : RegNum) (m : RegNum) :
    Statement (.swpb c n d m) := fun _ =>
  show _ &&& (0#4 ++ 0b11111111#8 ++ 0#4 ++ 0#4 ++ 0b11111111#8 ++ 0#4 : Word) = _ from
    and_fields (and_fields (and_fields (and_fields (and_fields BitVec.and_zero rfl) BitVec.and_zero) BitVec.and_zero) rfl) BitVec.and_zero

theorem clz (c : Cond) (d : RegNum) (m : RegNum) :
    Statement (.clz c d m) := fun _ =>
  show _ &&& (0#4 ++ 0b111111111111#12 ++ 0#4 ++ 0b11111111#8 ++ 0#4 : Word) = _ from
    and_fields (and_fields (and_fields (and_fields BitVec.and_zero rfl) BitVec.and_zero) rfl) BitVec.and_zero

theorem mrc (c : Cond) (crn : BitVec 4) (d : RegNum) (op2 : BitVec 3) (crm : BitVec 4) :
    Statement (.mrc c crn d op2 crm) := fun _ =>
  show _ &&& (0#4 ++ 0b11111111#8 ++ 0#4 ++ 0#4 ++ 0b1111#4 ++ 0#3 ++ 0b1#1 ++ 0#4 : Word) = _ from
    and_fields (and_fields (and_fields (and_fields (and_fields (and_fields (and_fields BitVec.and_zero rfl) BitVec.and_zero) BitVec.and_zero) rfl) BitVec.and_zero) rfl) BitVec.and_zero

theorem mcr (c : Cond) (crn : BitVec 4) (d : RegNum) (op2 : BitVec 3) (crm : BitVec 4) :
    Statement (.mcr c crn d op2 crm) := fun _ =>
  show _ &&& (0#4 ++ 0b11111111#8 ++ 0#4 ++ 0#4 ++ 0b1111#4 ++ 0#3 ++ 0b1#1 ++ 0#4 : Word) = _ from
    and_fields (and_fields (and_fields (and_fields (and_fields (and_fields (and_fields BitVec.and_zero rfl) BitVec.and_zero) BitVec.and_zero) rfl) BitVec.and_zero) rfl) BitVec.and_zero

end Sys2Proof.Laws.EncodeMatchesRow
end

