-- ==== Sys2Proof/Laws/Run.lean ====
section
/-! SUPPORT. Runs: what every step keeps holds all along a run, and a run ends in one way (spec
70_reset_and_hazards.md R269). -/

namespace Sys2Proof.Machine

/-! ## Induction along a run -/

/-- What holds at the start and is kept by every step holds in every state reached. -/
theorem Reaches.invariant {P : State → Prop} (keeps : ∀ s t, P s → Machine.step s = .next t → P t) {s t : State}
    (hs : P s) (h : Reaches s t) : P t := by
  induction h with
  | here => exact hs
  | step _ hn ih => exact keeps _ _ ih hn

/-- The run of a launch goes through states that its start reaches. -/
theorem Launch.Reaches.reaches {l : Launch} {k : Nat} {s : State} (h : l.Reaches k s) :
    Machine.Reaches l.start s := by
  induction h with
  | here => exact .here
  | step _ _ hn ih => exact .step ih hn

/-! ## The end of a run -/

/-- A run is in one state after a number of steps. -/
theorem Launch.Reaches.unique {l : Launch} {k : Nat} {s t : State} (hs : l.Reaches k s)
    (ht : l.Reaches k t) : s = t := by
  induction hs generalizing t with
  | here => cases ht; rfl
  | step _ _ hn ih =>
    cases ht with
    | step ht' _ hn' =>
      cases ih ht'
      exact Host.Outcome.next.inj (hn.symm.trans hn')

/-- Before the last step of a run it was not over. -/
theorem Launch.Reaches.earlier {l : Launch} {j k : Nat} {t : State} (h : l.Reaches k t) (hj : j < k) :
    ∃ s, l.Reaches j s ∧ l.ending.isOver j s = false := by
  induction h with
  | here => exact absurd hj (Nat.not_lt_zero j)
  | step hr ho _ ih =>
    rcases Nat.lt_succ_iff_lt_or_eq.mp hj with h | rfl
    · exact ih h
    · exact ⟨_, hr, ho⟩

/-- A run ends after one number of steps and in one state. -/
theorem Launch.EndsIn.unique {l : Launch} {j k : Nat} {s t : State} (hs : l.EndsIn j s)
    (ht : l.EndsIn k t) : j = k ∧ s = t := by
  have no : ∀ {a b : Nat} {x y : State}, l.EndsIn a x → l.EndsIn b y → ¬ a < b := by
    intro a b x y hx hy hab
    obtain ⟨z, hz, ho⟩ := hy.reached.earlier hab
    cases hx.reached.unique hz
    exact Bool.false_ne_true (ho.symm.trans hx.atEnd)
  have e : j = k := by have := no hs ht; have := no ht hs; omega
  subst e
  exact ⟨rfl, hs.reached.unique ht.reached⟩

/-- Following a run to its end finds the end. -/
theorem Launch.follow_ended {l : Launch} {fuel k : Nat} {s t : State} (h : l.Reaches k s)
    (hf : l.ending.follow fuel k s = .ended t) : ∃ j, l.EndsIn j t := by
  induction fuel generalizing k s with
  | zero =>
    unfold Ending.follow at hf
    split at hf
    · next ho => cases hf; exact ⟨k, h, ho⟩
    · cases hf
  | succ fuel ih =>
    unfold Ending.follow at hf
    split at hf
    · next ho => cases hf; exact ⟨k, h, ho⟩
    · next ho =>
      split at hf
      · next hn => exact ih (.step h (by simpa using ho) hn) hf
      · cases hf
      · cases hf

/-- A run that `run` says has ended does end there. -/
theorem Launch.run_ended {l : Launch} {fuel : Nat} {t : State} (h : l.run fuel = .ended t) :
    ∃ j, l.EndsIn j t :=
  l.follow_ended .here h

/-- At the end of a run with an exit address the pc is there for the first time. -/
theorem Launch.EndsIn.first_at_exit {l : Launch} {a : Word} {k : Nat} {t : State}
    (e : l.ending = .exitAddress a) (h : l.EndsIn k t) :
    t.pc = a ∧ ∀ j s, j < k → l.Reaches j s → s.pc ≠ a := by
  refine ⟨by simpa [e, Ending.isOver] using h.atEnd, fun j s hj hs => ?_⟩
  obtain ⟨u, hu, ho⟩ := h.reached.earlier hj
  cases hs.unique hu
  simpa [e, Ending.isOver] using ho

/-- A run with a number of steps ends after that number. -/
theorem Launch.EndsIn.steps_eq {l : Launch} {n k : Nat} {t : State} (e : l.ending = .afterSteps n)
    (h : l.EndsIn k t) : k = n := by
  have hk : n ≤ k := by simpa [e, Ending.isOver] using h.atEnd
  rcases Nat.lt_or_eq_of_le hk with hlt | rfl
  · obtain ⟨s, -, ho⟩ := h.reached.earlier hlt
    simp [e, Ending.isOver] at ho
  · rfl

end Sys2Proof.Machine
end

