-- ==== Sys2Proof/Laws/Step.lean ====
section
/-! SUPPORT. What one step does: the fetched and decoded instruction, and every way a step can end in a
next state (spec 00_scope.md R9, 60_exceptions.md R222, R226, R229). -/

namespace Sys2Proof.Machine

open Sys2Proof.Claims

/-! ## A step at a word -/

/-- No input is taken at a quiet boundary. -/
theorem pending_of_quiet {s : State} (h : Quiet s) : s.pending = none := by
  obtain ⟨hr, hf, hi⟩ := h
  unfold State.pending
  cases ef : s.linesNow.fiq <;> cases ei : s.linesNow.irq <;> simp_all

/-- At a quiet boundary the step executes an instruction. -/
theorem step_of_quiet {s : State} (he : s.params.endian = .little) (hq : Quiet s) :
    step s = stepInstr s.nextLines := by
  unfold step
  rw [he, pending_of_quiet hq]

/-- No byte of the word was written. -/
theorem wroteWord_eq_false {s : State} {a : Word} (h : ∀ x, span a 4 x → x.toNat ∉ s.written) :
    s.wroteWord a = false := by
  have k0 := h a ⟨0, by omega, by simp⟩
  have k1 := h (a + 1) ⟨1, by omega, rfl⟩
  have k2 := h (a + 2) ⟨2, by omega, rfl⟩
  have k3 := h (a + 3) ⟨3, by omega, rfl⟩
  simp only [State.wroteWord, List.any_cons, List.any_nil, k0, k1, k2, k3, decide_false, Bool.or_self]

/-- The fetch of the claims is the fetch of the machine. -/
theorem fetch_of_fetches {s : State} {m : Mode} {w : Word} (h : Fetches s m w) :
    s.nextLines.fetch = .ok w := by
  have hm : s.nextLines.mode? = some m := h.here.mode
  have ht : psrT s.nextLines.cpsr = false := h.here.thumb
  have ha : aligned s.nextLines.pc .word = true := (aligned_word _).mpr h.here.aligned
  have hp : s.nextLines.denied s.nextLines.pc .word .fetch m.priv = false := h.permitted
  have hu : s.nextLines.wroteWord s.nextLines.pc = false := wroteWord_eq_false h.unwritten
  have hw : s.nextLines.wordAt s.nextLines.pc = some w := h.word
  simp only [State.fetch, hm, ht, ha, hp, hu, hw, Bool.not_true, Bool.false_eq_true, if_false]

/-- The step at a word that is fetched: what it decodes to is tested for being admitted, then for the
hazard, and executed. -/
theorem step_of_fetches {s : State} {m : Mode} {w : Word} (h : Fetches s m w) :
    step s = match decodeWord w with
      | .error e => .refused (refusalOf e)
      | .ok i =>
        if !s.nextLines.admits i then .refused .notAdmitted
        else if s.nextLines.hazardHit i then .refused .bankedRegisterHazard
        else exec i (s.nextLines.setHazard false) := by
  cases hd : decodeWord w <;>
    simp only [step_of_quiet h.here.endian h.here.quiet, stepInstr, fetch_of_fetches h, hd]

/-- Every instruction but CLZ is admitted under every configuration. -/
theorem admits_of_not_clz {s : State} {i : Instr} (h : ∀ c d m, i ≠ .clz c d m) :
    s.admits i = true := by
  cases i <;> first | rfl | exact absurd rfl (h _ _ _)

/-! ## Every next state of a step -/

/-- The next states of a step: the reset input, an exception entered at the boundary or by the fetch, or
an instruction executed. -/
inductive StepNext (s t : State) : Prop where
  | reset (h : t = s.nextLines.enterReset)
  | entry (e : Exception) (he : e = .prefetchAbort ∨ e = .irq ∨ e = .fiq)
      (h : t = s.nextLines.enterException e (s.pc + 4))
  | executed (w : Word) (i : Instr) (hf : s.nextLines.fetch = .ok w) (hd : decodeWord w = .ok i)
      (ha : s.nextLines.admits i = true) (hz : s.nextLines.hazardHit i = false)
      (h : exec i (s.nextLines.setHazard false) = .next t)

/-- The event taken at a boundary is the reset input, an FIQ or an IRQ. -/
theorem pending_cases {s : State} {e : Exception} (h : s.pending = some e) :
    e = .reset ∨ e = .fiq ∨ e = .irq := by
  unfold State.pending at h
  split at h
  · exact .inl (Option.some.inj h).symm
  · split at h
    · exact .inr (.inl (Option.some.inj h).symm)
    · split at h
      · exact .inr (.inr (Option.some.inj h).symm)
      · cases h

/-- A step after the boundary that ends in a next state. -/
theorem stepInstr_next {s t : State} (h : stepInstr s.nextLines = .next t) : StepNext s t := by
  unfold stepInstr at h
  split at h
  · exact .entry .prefetchAbort (.inl rfl) (Host.Outcome.next.inj h).symm
  · cases h
  · cases h
  · next w hf =>
    split at h
    · cases h
    · next i hd =>
      split at h
      · cases h
      · next ha =>
        split at h
        · cases h
        · next hz => exact .executed w i hf hd (by simpa using ha) (by simpa using hz) h

/-- A step that ends in a next state. -/
theorem step_next {s t : State} (h : step s = .next t) : StepNext s t := by
  unfold step at h
  split at h
  · cases h
  · split at h
    · next e he =>
      have ht := (Host.Outcome.next.inj h).symm
      rcases pending_cases he with rfl | rfl | rfl
      · exact .reset ht
      · exact .entry .fiq (.inr (.inr rfl)) ht
      · exact .entry .irq (.inr (.inl rfl)) ht
    · exact stepInstr_next h

end Sys2Proof.Machine
end

