-- ==== Sys2Proof/Tests/Slice0.lean ====
section
/-! SUPPORT. The tests: words written out bit by bit from the formats of spec 30_encoding.md section 2,
single steps with the results of spec 95_test_vectors.md (or worked out by hand from the rule named),
and for every statement of Obligations.lean that has hypotheses a state and operands that meet them. -/

namespace Sys2Proof.Tests

open Sys2Proof Sys2Proof.Machine Sys2Proof.Claims

/-! ## Small states -/

def putRegs : List (PhysReg × Word) → State → State
  | [], s => s
  | (p, v) :: rest, s => putRegs rest (s.setPhys p v)

def putWords : List (Word × Word) → State → State
  | [], s => s
  | (a, v) :: rest, s => putWords rest (s.placeWord a v)

/-- The start state of spec 95: pc 0x8000, C1_OTHER 0x50078, A = 0, PC_STORE_OFFSET 8. -/
def cpu (psr : Word) (regs : List (PhysReg × Word)) (words : List (Word × Word)) : State :=
  putWords words (putRegs regs
    { State.reset with
      pc := 0x8000, cpsr := psr, cp15c1 := 0x50078, params := ⟨false, true, .little, .plus8⟩ })

def after {α : Type} (o : Host.Outcome State Fault Refusal) (f : State → α) : Option α :=
  match o with
  | .next t => some (f t)
  | _ => none

def refusal (o : Host.Outcome State Fault Refusal) : Option Refusal :=
  match o with
  | .refused r => some r
  | _ => none

def fault (o : Host.Outcome State Fault Refusal) : Option Fault :=
  match o with
  | .fault f => some f
  | _ => none

/-! ## Well-formedness -/

theorem test_return_needs_the_pc_in_its_list :
    ∀ i ∈ [Instr.ldmiaRet .al false 0 0x7FFF, .ldmibRet .al false 0 0x7FFF,
      .ldmdaRet .al false 0 0x7FFF, .ldmdbRet .al false 0 0x7FFF], i.wellFormed = false := by decide

theorem test_user_bank_forms_must_not_name_the_pc :
    ∀ i ∈ [Instr.ldmiaUsr .al 0 0x8000, .ldmibUsr .al 0 0x8000, .ldmdaUsr .al 0 0x8000,
      .ldmdbUsr .al 0 0x8000, .stmiaUsr .al 0 0x8000, .stmibUsr .al 0 0x8000,
      .stmdaUsr .al 0 0x8000, .stmdbUsr .al 0 0x8000], i.wellFormed = false := by decide

theorem test_well_formed_forms :
    ∀ i ∈ [Instr.ldmiaRet .al false 0 0x8000, .ldmdbUsr .al 0 0x7FFF, .stmibUsr .al 0 0x7FFF,
      .ldmia .al true 0 0xFFFF], i.wellFormed = true := by decide

/-! ## Decoding (formats R83, R87, R89, R91 to R94) -/

theorem test_decodes_ldrImmPre :
    decodeWord (0b0001#4 ++ 0b010#3 ++ 0b10011#5 ++ 2#4 ++ 7#4 ++ 0x8A5#12) =
      .ok (.ldrImmPre .ne false true 2 7 0x8A5) := by decide

theorem test_decodes_ldrImmPost :
    decodeWord (0b0001#4 ++ 0b010#3 ++ 0b01001#5 ++ 2#4 ++ 7#4 ++ 0x8A5#12) =
      .ok (.ldrImmPost .ne true 2 7 0x8A5) := by decide

theorem test_decodes_ldrRegPre :
    decodeWord (0b1010#4 ++ 0b011#3 ++ 0b11011#5 ++ 3#4 ++ 12#4 ++ 17#5 ++ 0#2 ++ 0#1 ++ 9#4) =
      .ok (.ldrRegPre .ge true true 3 12 17 .lsl 9) := by decide

theorem test_decodes_ldrRegPost :
    decodeWord (0b1010#4 ++ 0b011#3 ++ 0b00001#5 ++ 3#4 ++ 12#4 ++ 17#5 ++ 1#2 ++ 0#1 ++ 9#4) =
      .ok (.ldrRegPost .ge false 3 12 17 .lsr 9) := by decide

theorem test_decodes_ldrtImm :
    decodeWord (0b0001#4 ++ 0b010#3 ++ 0b00011#5 ++ 2#4 ++ 7#4 ++ 0x8A5#12) =
      .ok (.ldrtImm .ne false 2 7 0x8A5) := by decide

theorem test_decodes_ldrtReg :
    decodeWord (0b1010#4 ++ 0b011#3 ++ 0b01011#5 ++ 3#4 ++ 12#4 ++ 17#5 ++ 2#2 ++ 0#1 ++ 9#4) =
      .ok (.ldrtReg .ge true 3 12 17 .asr 9) := by decide

theorem test_decodes_ldrbImmPre :
    decodeWord (0b0001#4 ++ 0b010#3 ++ 0b11101#5 ++ 2#4 ++ 7#4 ++ 0x8A5#12) =
      .ok (.ldrbImmPre .ne true false 2 7 0x8A5) := by decide

theorem test_decodes_ldrbImmPost :
    decodeWord (0b0001#4 ++ 0b010#3 ++ 0b00101#5 ++ 2#4 ++ 7#4 ++ 0x8A5#12) =
      .ok (.ldrbImmPost .ne false 2 7 0x8A5) := by decide

theorem test_decodes_ldrbRegPre :
    decodeWord (0b1010#4 ++ 0b011#3 ++ 0b10101#5 ++ 3#4 ++ 12#4 ++ 17#5 ++ 3#2 ++ 0#1 ++ 9#4) =
      .ok (.ldrbRegPre .ge false false 3 12 17 .ror 9) := by decide

theorem test_decodes_ldrbRegPost :
    decodeWord (0b1010#4 ++ 0b011#3 ++ 0b01101#5 ++ 3#4 ++ 12#4 ++ 17#5 ++ 0#2 ++ 0#1 ++ 9#4) =
      .ok (.ldrbRegPost .ge true 3 12 17 .lsl 9) := by decide

theorem test_decodes_ldrbtImm :
    decodeWord (0b0001#4 ++ 0b010#3 ++ 0b01111#5 ++ 2#4 ++ 7#4 ++ 0x8A5#12) =
      .ok (.ldrbtImm .ne true 2 7 0x8A5) := by decide

theorem test_decodes_ldrbtReg :
    decodeWord (0b1010#4 ++ 0b011#3 ++ 0b00111#5 ++ 3#4 ++ 12#4 ++ 17#5 ++ 1#2 ++ 0#1 ++ 9#4) =
      .ok (.ldrbtReg .ge false 3 12 17 .lsr 9) := by decide

theorem test_decodes_strImmPre :
    decodeWord (0b0001#4 ++ 0b010#3 ++ 0b11010#5 ++ 2#4 ++ 7#4 ++ 0x8A5#12) =
      .ok (.strImmPre .ne true true 2 7 0x8A5) := by decide

theorem test_decodes_strImmPost :
    decodeWord (0b0001#4 ++ 0b010#3 ++ 0b00000#5 ++ 2#4 ++ 7#4 ++ 0x8A5#12) =
      .ok (.strImmPost .ne false 2 7 0x8A5) := by decide

theorem test_decodes_strRegPre :
    decodeWord (0b1010#4 ++ 0b011#3 ++ 0b10000#5 ++ 3#4 ++ 12#4 ++ 17#5 ++ 2#2 ++ 0#1 ++ 9#4) =
      .ok (.strRegPre .ge false false 3 12 17 .asr 9) := by decide

theorem test_decodes_strRegPost :
    decodeWord (0b1010#4 ++ 0b011#3 ++ 0b01000#5 ++ 3#4 ++ 12#4 ++ 17#5 ++ 3#2 ++ 0#1 ++ 9#4) =
      .ok (.strRegPost .ge true 3 12 17 .ror 9) := by decide

theorem test_decodes_strtImm :
    decodeWord (0b0001#4 ++ 0b010#3 ++ 0b01010#5 ++ 2#4 ++ 7#4 ++ 0x8A5#12) =
      .ok (.strtImm .ne true 2 7 0x8A5) := by decide

theorem test_decodes_strtReg :
    decodeWord (0b1010#4 ++ 0b011#3 ++ 0b00010#5 ++ 3#4 ++ 12#4 ++ 17#5 ++ 0#2 ++ 0#1 ++ 9#4) =
      .ok (.strtReg .ge false 3 12 17 .lsl 9) := by decide

theorem test_decodes_strbImmPre :
    decodeWord (0b0001#4 ++ 0b010#3 ++ 0b10110#5 ++ 2#4 ++ 7#4 ++ 0x8A5#12) =
      .ok (.strbImmPre .ne false true 2 7 0x8A5) := by decide

theorem test_decodes_strbImmPost :
    decodeWord (0b0001#4 ++ 0b010#3 ++ 0b01100#5 ++ 2#4 ++ 7#4 ++ 0x8A5#12) =
      .ok (.strbImmPost .ne true 2 7 0x8A5) := by decide

theorem test_decodes_strbRegPre :
    decodeWord (0b1010#4 ++ 0b011#3 ++ 0b11110#5 ++ 3#4 ++ 12#4 ++ 17#5 ++ 1#2 ++ 0#1 ++ 9#4) =
      .ok (.strbRegPre .ge true true 3 12 17 .lsr 9) := by decide

theorem test_decodes_strbRegPost :
    decodeWord (0b1010#4 ++ 0b011#3 ++ 0b00100#5 ++ 3#4 ++ 12#4 ++ 17#5 ++ 2#2 ++ 0#1 ++ 9#4) =
      .ok (.strbRegPost .ge false 3 12 17 .asr 9) := by decide

theorem test_decodes_strbtImm :
    decodeWord (0b0001#4 ++ 0b010#3 ++ 0b00110#5 ++ 2#4 ++ 7#4 ++ 0x8A5#12) =
      .ok (.strbtImm .ne false 2 7 0x8A5) := by decide

theorem test_decodes_strbtReg :
    decodeWord (0b1010#4 ++ 0b011#3 ++ 0b01110#5 ++ 3#4 ++ 12#4 ++ 17#5 ++ 3#2 ++ 0#1 ++ 9#4) =
      .ok (.strbtReg .ge true 3 12 17 .ror 9) := by decide

theorem test_decodes_ldrhImmPre :
    decodeWord (0b0110#4 ++ 0b000#3 ++ 0b10111#5 ++ 5#4 ++ 11#4 ++ 0xC#4 ++ 0b1011#4 ++ 0x3#4) =
      .ok (.ldrhImmPre .vs false true 5 11 0xC3) := by decide

theorem test_decodes_ldrhImmPost :
    decodeWord (0b0110#4 ++ 0b000#3 ++ 0b01101#5 ++ 5#4 ++ 11#4 ++ 0xC#4 ++ 0b1011#4 ++ 0x3#4) =
      .ok (.ldrhImmPost .vs true 5 11 0xC3) := by decide

theorem test_decodes_ldrhRegPre :
    decodeWord (0b1000#4 ++ 0b000#3 ++ 0b11001#5 ++ 6#4 ++ 10#4 ++ 0#4 ++ 0b1011#4 ++ 13#4) =
      .ok (.ldrhRegPre .hi true false 6 10 13) := by decide

theorem test_decodes_ldrhRegPost :
    decodeWord (0b1000#4 ++ 0b000#3 ++ 0b00001#5 ++ 6#4 ++ 10#4 ++ 0#4 ++ 0b1011#4 ++ 13#4) =
      .ok (.ldrhRegPost .hi false 6 10 13) := by decide

theorem test_decodes_strhImmPre :
    decodeWord (0b0110#4 ++ 0b000#3 ++ 0b11110#5 ++ 5#4 ++ 11#4 ++ 0xC#4 ++ 0b1011#4 ++ 0x3#4) =
      .ok (.strhImmPre .vs true true 5 11 0xC3) := by decide

theorem test_decodes_strhImmPost :
    decodeWord (0b0110#4 ++ 0b000#3 ++ 0b00100#5 ++ 5#4 ++ 11#4 ++ 0xC#4 ++ 0b1011#4 ++ 0x3#4) =
      .ok (.strhImmPost .vs false 5 11 0xC3) := by decide

theorem test_decodes_strhRegPre :
    decodeWord (0b1000#4 ++ 0b000#3 ++ 0b10000#5 ++ 6#4 ++ 10#4 ++ 0#4 ++ 0b1011#4 ++ 13#4) =
      .ok (.strhRegPre .hi false false 6 10 13) := by decide

theorem test_decodes_strhRegPost :
    decodeWord (0b1000#4 ++ 0b000#3 ++ 0b01000#5 ++ 6#4 ++ 10#4 ++ 0#4 ++ 0b1011#4 ++ 13#4) =
      .ok (.strhRegPost .hi true 6 10 13) := by decide

theorem test_decodes_ldrsbImmPre :
    decodeWord (0b0110#4 ++ 0b000#3 ++ 0b11101#5 ++ 5#4 ++ 11#4 ++ 0xC#4 ++ 0b1101#4 ++ 0x3#4) =
      .ok (.ldrsbImmPre .vs true false 5 11 0xC3) := by decide

theorem test_decodes_ldrsbImmPost :
    decodeWord (0b0110#4 ++ 0b000#3 ++ 0b00101#5 ++ 5#4 ++ 11#4 ++ 0xC#4 ++ 0b1101#4 ++ 0x3#4) =
      .ok (.ldrsbImmPost .vs false 5 11 0xC3) := by decide

theorem test_decodes_ldrsbRegPre :
    decodeWord (0b1000#4 ++ 0b000#3 ++ 0b10011#5 ++ 6#4 ++ 10#4 ++ 0#4 ++ 0b1101#4 ++ 13#4) =
      .ok (.ldrsbRegPre .hi false true 6 10 13) := by decide

theorem test_decodes_ldrsbRegPost :
    decodeWord (0b1000#4 ++ 0b000#3 ++ 0b01001#5 ++ 6#4 ++ 10#4 ++ 0#4 ++ 0b1101#4 ++ 13#4) =
      .ok (.ldrsbRegPost .hi true 6 10 13) := by decide

theorem test_decodes_ldrshImmPre :
    decodeWord (0b0110#4 ++ 0b000#3 ++ 0b10101#5 ++ 5#4 ++ 11#4 ++ 0xC#4 ++ 0b1111#4 ++ 0x3#4) =
      .ok (.ldrshImmPre .vs false false 5 11 0xC3) := by decide

theorem test_decodes_ldrshImmPost :
    decodeWord (0b0110#4 ++ 0b000#3 ++ 0b01101#5 ++ 5#4 ++ 11#4 ++ 0xC#4 ++ 0b1111#4 ++ 0x3#4) =
      .ok (.ldrshImmPost .vs true 5 11 0xC3) := by decide

theorem test_decodes_ldrshRegPre :
    decodeWord (0b1000#4 ++ 0b000#3 ++ 0b11011#5 ++ 6#4 ++ 10#4 ++ 0#4 ++ 0b1111#4 ++ 13#4) =
      .ok (.ldrshRegPre .hi true true 6 10 13) := by decide

theorem test_decodes_ldrshRegPost :
    decodeWord (0b1000#4 ++ 0b000#3 ++ 0b00001#5 ++ 6#4 ++ 10#4 ++ 0#4 ++ 0b1111#4 ++ 13#4) =
      .ok (.ldrshRegPost .hi false 6 10 13) := by decide

theorem test_decodes_ldmia :
    decodeWord (0b1101#4 ++ 0b100#3 ++ 0b01001#5 ++ 14#4 ++ 0x8421#16) =
      .ok (.ldmia .le false 14 0x8421) := by decide

theorem test_decodes_ldmib :
    decodeWord (0b1101#4 ++ 0b100#3 ++ 0b11011#5 ++ 14#4 ++ 0x8421#16) =
      .ok (.ldmib .le true 14 0x8421) := by decide

theorem test_decodes_ldmda :
    decodeWord (0b1101#4 ++ 0b100#3 ++ 0b00001#5 ++ 14#4 ++ 0x8421#16) =
      .ok (.ldmda .le false 14 0x8421) := by decide

theorem test_decodes_ldmdb :
    decodeWord (0b1101#4 ++ 0b100#3 ++ 0b10011#5 ++ 14#4 ++ 0x8421#16) =
      .ok (.ldmdb .le true 14 0x8421) := by decide

theorem test_decodes_stmia :
    decodeWord (0b1100#4 ++ 0b100#3 ++ 0b01010#5 ++ 1#4 ++ 0xC006#16) =
      .ok (.stmia .gt true 1 0xC006) := by decide

theorem test_decodes_stmib :
    decodeWord (0b1100#4 ++ 0b100#3 ++ 0b11000#5 ++ 1#4 ++ 0xC006#16) =
      .ok (.stmib .gt false 1 0xC006) := by decide

theorem test_decodes_stmda :
    decodeWord (0b1100#4 ++ 0b100#3 ++ 0b00010#5 ++ 1#4 ++ 0xC006#16) =
      .ok (.stmda .gt true 1 0xC006) := by decide

theorem test_decodes_stmdb :
    decodeWord (0b1100#4 ++ 0b100#3 ++ 0b10000#5 ++ 1#4 ++ 0xC006#16) =
      .ok (.stmdb .gt false 1 0xC006) := by decide

theorem test_decodes_ldmiaRet :
    decodeWord (0b1110#4 ++ 0b100#3 ++ 0b01101#5 ++ 13#4 ++ 0x8003#16) =
      .ok (.ldmiaRet .al false 13 0x8003) := by decide

theorem test_decodes_ldmibRet :
    decodeWord (0b1110#4 ++ 0b100#3 ++ 0b11111#5 ++ 13#4 ++ 0x8003#16) =
      .ok (.ldmibRet .al true 13 0x8003) := by decide

theorem test_decodes_ldmdaRet :
    decodeWord (0b1110#4 ++ 0b100#3 ++ 0b00101#5 ++ 13#4 ++ 0x8003#16) =
      .ok (.ldmdaRet .al false 13 0x8003) := by decide

theorem test_decodes_ldmdbRet :
    decodeWord (0b1110#4 ++ 0b100#3 ++ 0b10111#5 ++ 13#4 ++ 0x8003#16) =
      .ok (.ldmdbRet .al true 13 0x8003) := by decide

theorem test_decodes_ldmiaUsr :
    decodeWord (0b0000#4 ++ 0b100#3 ++ 0b01101#5 ++ 0#4 ++ 0x6100#16) =
      .ok (.ldmiaUsr .eq 0 0x6100) := by decide

theorem test_decodes_ldmibUsr :
    decodeWord (0b0000#4 ++ 0b100#3 ++ 0b11101#5 ++ 0#4 ++ 0x6100#16) =
      .ok (.ldmibUsr .eq 0 0x6100) := by decide

theorem test_decodes_ldmdaUsr :
    decodeWord (0b0000#4 ++ 0b100#3 ++ 0b00101#5 ++ 0#4 ++ 0x6100#16) =
      .ok (.ldmdaUsr .eq 0 0x6100) := by decide

theorem test_decodes_ldmdbUsr :
    decodeWord (0b0000#4 ++ 0b100#3 ++ 0b10101#5 ++ 0#4 ++ 0x6100#16) =
      .ok (.ldmdbUsr .eq 0 0x6100) := by decide

theorem test_decodes_stmiaUsr :
    decodeWord (0b0010#4 ++ 0b100#3 ++ 0b01100#5 ++ 0#4 ++ 0x6100#16) =
      .ok (.stmiaUsr .cs 0 0x6100) := by decide

theorem test_decodes_stmibUsr :
    decodeWord (0b0010#4 ++ 0b100#3 ++ 0b11100#5 ++ 0#4 ++ 0x6100#16) =
      .ok (.stmibUsr .cs 0 0x6100) := by decide

theorem test_decodes_stmdaUsr :
    decodeWord (0b0010#4 ++ 0b100#3 ++ 0b00100#5 ++ 0#4 ++ 0x6100#16) =
      .ok (.stmdaUsr .cs 0 0x6100) := by decide

theorem test_decodes_stmdbUsr :
    decodeWord (0b0010#4 ++ 0b100#3 ++ 0b10100#5 ++ 0#4 ++ 0x6100#16) =
      .ok (.stmdbUsr .cs 0 0x6100) := by decide

theorem test_decodes_swi :
    decodeWord (0b1011#4 ++ 0b1111#4 ++ 0x123456#24) =
      .ok (.swi .lt 0x123456) := by decide

theorem test_decodes_swp :
    decodeWord (0b0011#4 ++ 0b00010#5 ++ 0b000#3 ++ 2#4 ++ 4#4 ++ 0b00001001#8 ++ 1#4) =
      .ok (.swp .cc 2 4 1) := by decide

theorem test_decodes_swpb :
    decodeWord (0b0100#4 ++ 0b00010#5 ++ 0b100#3 ++ 3#4 ++ 5#4 ++ 0b00001001#8 ++ 6#4) =
      .ok (.swpb .mi 3 5 6) := by decide

theorem test_decodes_clz :
    decodeWord (0b0101#4 ++ 0b000101101111#12 ++ 4#4 ++ 0b11110001#8 ++ 5#4) =
      .ok (.clz .pl 4 5) := by decide

theorem test_decodes_mrc :
    decodeWord (0b0111#4 ++ 0b11100001#8 ++ 13#4 ++ 6#4 ++ 15#4 ++ 5#3 ++ 1#1 ++ 3#4) =
      .ok (.mrc .vc 13 6 5 3) := by decide

theorem test_decodes_mcr :
    decodeWord (0b1001#4 ++ 0b11100000#8 ++ 2#4 ++ 8#4 ++ 15#4 ++ 1#3 ++ 1#1 ++ 7#4) =
      .ok (.mcr .ls 2 8 1 7) := by decide

/-- The words of spec 95 section 2.12 that no row of the table admits. -/
theorem test_transfer_words_not_admitted :
    [(0xE7910012 : Word), 0xE0B100B2, 0xE1C100D0, 0xE1C100F0, 0xE19101B2, 0xE8F06000, 0xE8E02000,
      0xE8C08002].map decodeWord = List.replicate 8 (.error .notAdmitted) := by decide

/-- The others of that section. -/
theorem test_other_words_not_admitted :
    [(0xE1220091 : Word), 0xE1020191, 0xE16E0F11, 0xE16F0E11, 0xEE110E10, 0xEE310F10, 0xEE110F00,
      0xE1A00000, 0xEA000000, 0xE0010392].map decodeWord = List.replicate 10 (.error .notAdmitted) := by
  decide

theorem test_condition_1111 : decodeWord 0xF5910000 = .error .cond1111 := by decide

theorem test_decode_leaves_the_rest :
    decode [0x11, 0x0F, 0x6F, 0xE1, 0x42] = .ok (.clz .al 0 1, [0x42]) := by decide

theorem test_decode_of_three_bytes : decode [0x11, 0x0F, 0x6F] = .error .truncated := by decide

theorem test_decodeTableWord :
    decodeTableWord 32 0xE16F0F11 = some (.clz .al 0 1) ∧ decodeTableWord 32 0xEA000000 = none := by
  decide

/-! ## From reset -/

theorem test_first_instruction_after_reset :
    after (step (State.reset.withFetchWord 32 0xE16F0F11)) (fun t => (t.getPhys .r0, t.pc)) =
      some (32, 4) := by decide

theorem test_nothing_to_run_after_reset : fault (step State.reset) = some .unwrittenState := by decide

/-! ## Single steps -/

/-- Spec 95 section 2.2. -/
theorem test_ldrImmPre :
    after (step (cpu 0x10 [(.r1, 0x1000)]
      [(0x8000, 0xE5B10003), (0x1000, 0x44332211)]))
      (fun t => (t.getPhys .r0, t.getPhys .r1, t.pc)) =
      some (0x33221144, 0x1003, 0x8004) := by decide

/-- Spec 95 section 2.2. -/
theorem test_ldrImmPre_to_the_pc :
    after (step (cpu 0x10 [(.r1, 0x1000)]
      [(0x8000, 0xE591F003), (0x1000, 0x44332211)]))
      (fun t => t.pc) =
      some 0x33221144 := by decide

/-- Spec 95 section 2.1. -/
theorem test_ldrImmPost :
    after (step (cpu 0x10 [(.r1, 0x1000)]
      [(0x8000, 0xE4110010), (0x1000, 0x44332211)]))
      (fun t => (t.getPhys .r0, t.getPhys .r1, t.pc)) =
      some (0x44332211, 0xFF0, 0x8004) := by decide

/-- Spec 95 section 2.1: ASR #32. -/
theorem test_ldrRegPre :
    after (step (cpu 0x10 [(.r1, 0x1000), (.r3, 0x80000004)]
      [(0x8000, 0xE7910043), (0xFFC, 0xAAAA0FFC)]))
      (fun t => (t.getPhys .r0, t.pc)) =
      some (0xAA0FFCAA, 0x8004) := by decide

/-- Spec 95 section 2.1: RRX with C = 0. -/
theorem test_ldrRegPre_rrx :
    after (step (cpu 0x10 [(.r1, 0x1000), (.r2, 0x10)]
      [(0x8000, 0xE7910062), (0x1008, 0xCCBBAA99)]))
      (fun t => (t.getPhys .r0, t.pc)) =
      some (0xCCBBAA99, 0x8004) := by decide

/-- By hand from R123 and R124. -/
theorem test_ldrRegPost :
    after (step (cpu 0x10 [(.r1, 0x1000), (.r2, 0x10)]
      [(0x8000, 0xE6110002), (0x1000, 0x44332211)]))
      (fun t => (t.getPhys .r0, t.getPhys .r1, t.pc)) =
      some (0x44332211, 0xFF0, 0x8004) := by decide

/-- Spec 95 section 2.3. -/
theorem test_ldrtImm :
    after (step (cpu 0x13 [(.r1, 0x1001)]
      [(0x8000, 0xE4B10000), (0x1000, 0x44332211)]))
      (fun t => (t.getPhys .r0, t.getPhys .r1, t.pc)) =
      some (0x11443322, 0x1001, 0x8004) := by decide

/-- Spec 95 section 2.3: Supervisor mode, the access denied to User. -/
theorem test_ldrtImm_judged_as_user :
    after (step ({ cpu 0x13 [(.r0, 0xBADF00D), (.r1, 0x1000)]
      [(0x8000, 0xE4B10004), (0x1000, 0x44332211)] with
      denials := [⟨0x1000, 0x1FFF, .word, .read, .user⟩] }))
      (fun t => (t.getPhys .r0, t.abortInfo, t.getPhys .r14_abt, t.cpsr, t.spsrAbt, t.pc)) =
      some (0xBADF00D, some ⟨.permission, 0x1000⟩, 0x8008, 0x97, 0x13, 0x10) := by decide

/-- By hand from R123 and R128. -/
theorem test_ldrtReg :
    after (step (cpu 0x13 [(.r1, 0x1000), (.r2, 0x10)]
      [(0x8000, 0xE6B10002), (0x1000, 0x44332211)]))
      (fun t => (t.getPhys .r0, t.getPhys .r1, t.pc)) =
      some (0x44332211, 0x1010, 0x8004) := by decide

/-- Spec 95 section 2.3. -/
theorem test_ldrbImmPre :
    after (step (cpu 0x10 [(.r1, 0x1000)]
      [(0x8000, 0xE5D1000B), (0x1008, 0xCCBBAA99)]))
      (fun t => (t.getPhys .r0, t.pc)) =
      some (0xCC, 0x8004) := by decide

/-- By hand from R123 and R126. -/
theorem test_ldrbImmPost :
    after (step (cpu 0x10 [(.r1, 0x1000)]
      [(0x8000, 0xE4D10001), (0x1000, 0x44332211)]))
      (fun t => (t.getPhys .r0, t.getPhys .r1, t.pc)) =
      some (0x11, 0x1001, 0x8004) := by decide

/-- By hand from R122 and R126. -/
theorem test_ldrbRegPre :
    after (step (cpu 0x10 [(.r1, 0x1000), (.r2, 0x10)]
      [(0x8000, 0xE7D10002), (0x1010, 0x10101010)]))
      (fun t => (t.getPhys .r0, t.getPhys .r1, t.pc)) =
      some (0x10, 0x1000, 0x8004) := by decide

/-- Spec 95 section 2.3. -/
theorem test_ldrbRegPost :
    after (step (cpu 0x10 [(.r1, 0x1000), (.r2, 0x10)]
      [(0x8000, 0xE6D10222), (0x1000, 0x44332211)]))
      (fun t => (t.getPhys .r0, t.getPhys .r1, t.pc)) =
      some (0x11, 0x1001, 0x8004) := by decide

/-- Spec 95 section 2.3. -/
theorem test_ldrbtImm :
    after (step (cpu 0x13 [(.r1, 0x1000)]
      [(0x8000, 0xE4F10001), (0x1000, 0x44332211)]))
      (fun t => (t.getPhys .r0, t.getPhys .r1, t.pc)) =
      some (0x11, 0x1001, 0x8004) := by decide

/-- By hand from R123 and R130. -/
theorem test_ldrbtReg :
    after (step (cpu 0x13 [(.r1, 0x1000), (.r2, 0x10)]
      [(0x8000, 0xE6F10002), (0x1000, 0x44332211)]))
      (fun t => (t.getPhys .r0, t.getPhys .r1, t.pc)) =
      some (0x11, 0x1010, 0x8004) := by decide

/-- Spec 95 section 2.2. -/
theorem test_strImmPre :
    after (step (cpu 0x10 [(.r0, 0xBADF00D), (.r1, 0x1000)]
      [(0x8000, 0xE5A10007), (0x1004, 0x88776655)]))
      (fun t => (t.getPhys .r1, t.wordAt 0x1004, t.pc)) =
      some (0x1007, some 0xBADF00D, 0x8004) := by decide

/-- Spec 95 section 2.2: PC_STORE_OFFSET = 8. -/
theorem test_strImmPre_of_the_pc :
    after (step (cpu 0x10 [(.r1, 0x1000)]
      [(0x8000, 0xE581F000), (0x1000, 0x44332211)]))
      (fun t => (t.wordAt 0x1000, t.pc)) =
      some (some 0x8008, 0x8004) := by decide

/-- Spec 95 section 2.2. -/
theorem test_strImmPost :
    after (step (cpu 0x10 [(.r0, 0xBADF00D), (.r1, 0x1000)]
      [(0x8000, 0xE4810003)]))
      (fun t => (t.getPhys .r1, t.wordAt 0x1000, t.pc)) =
      some (0x1003, some 0xBADF00D, 0x8004) := by decide

/-- By hand from R122 and R125. -/
theorem test_strRegPre :
    after (step (cpu 0x10 [(.r0, 0xBADF00D), (.r1, 0x1000), (.r2, 0x10)]
      [(0x8000, 0xE7810002)]))
      (fun t => (t.getPhys .r1, t.wordAt 0x1010, t.pc)) =
      some (0x1000, some 0xBADF00D, 0x8004) := by decide

/-- By hand from R123 and R125. -/
theorem test_strRegPost :
    after (step (cpu 0x10 [(.r0, 0xBADF00D), (.r1, 0x1000), (.r2, 0x10)]
      [(0x8000, 0xE6010002)]))
      (fun t => (t.getPhys .r1, t.wordAt 0x1000, t.pc)) =
      some (0xFF0, some 0xBADF00D, 0x8004) := by decide

/-- Spec 95 section 2.3. -/
theorem test_strtImm :
    after (step (cpu 0x13 [(.r0, 0xBADF00D), (.r1, 0x1000)]
      [(0x8000, 0xE4210004)]))
      (fun t => (t.getPhys .r1, t.wordAt 0x1000, t.pc)) =
      some (0xFFC, some 0xBADF00D, 0x8004) := by decide

/-- By hand from R123 and R129. -/
theorem test_strtReg :
    after (step (cpu 0x13 [(.r0, 0xBADF00D), (.r1, 0x1000), (.r2, 0x10)]
      [(0x8000, 0xE6A10002)]))
      (fun t => (t.getPhys .r1, t.wordAt 0x1000, t.pc)) =
      some (0x1010, some 0xBADF00D, 0x8004) := by decide

/-- Spec 95 section 2.3. -/
theorem test_strtReg_judged_as_user :
    after (step ({ cpu 0x13 [(.r0, 0xBADF00D), (.r1, 0x1000), (.r2, 0x10)]
      [(0x8000, 0xE6A10002), (0x1000, 0x44332211)] with
      denials := [⟨0x1000, 0x1FFF, .word, .write, .user⟩] }))
      (fun t => (t.wordAt 0x1000, t.abortInfo, t.getPhys .r14_abt, t.cpsr, t.spsrAbt, t.pc)) =
      some (some 0x44332211, some ⟨.permission, 0x1000⟩, 0x8008, 0x97, 0x13, 0x10) := by decide

/-- Spec 95 section 2.3. -/
theorem test_strbImmPre :
    after (step (cpu 0x10 [(.r1, 0x1000), (.r3, 0x80000004)]
      [(0x8000, 0xE5613001), (0xFFC, 0xAAAA0FFC)]))
      (fun t => (t.getPhys .r1, t.wordAt 0xFFC, t.pc)) =
      some (0xFFF, some 0x4AA0FFC, 0x8004) := by decide

/-- By hand from R123 and R127. -/
theorem test_strbImmPost :
    after (step (cpu 0x10 [(.r0, 0xBADF00D), (.r1, 0x1000)]
      [(0x8000, 0xE4C10001), (0x1000, 0x44332211)]))
      (fun t => (t.getPhys .r1, t.wordAt 0x1000, t.pc)) =
      some (0x1001, some 0x4433220D, 0x8004) := by decide

/-- By hand from R122 and R127. -/
theorem test_strbRegPre :
    after (step (cpu 0x10 [(.r0, 0xBADF00D), (.r1, 0x1000), (.r2, 0x10)]
      [(0x8000, 0xE7C10002), (0x1010, 0x10101010)]))
      (fun t => (t.getPhys .r1, t.wordAt 0x1010, t.pc)) =
      some (0x1000, some 0x1010100D, 0x8004) := by decide

/-- By hand from R123 and R127. -/
theorem test_strbRegPost :
    after (step (cpu 0x10 [(.r0, 0xBADF00D), (.r1, 0x1000), (.r2, 0x10)]
      [(0x8000, 0xE6C10002), (0x1000, 0x44332211)]))
      (fun t => (t.getPhys .r1, t.wordAt 0x1000, t.pc)) =
      some (0x1010, some 0x4433220D, 0x8004) := by decide

/-- Spec 95 section 2.3. -/
theorem test_strbtImm :
    after (step (cpu 0x13 [(.r1, 0x1000), (.r2, 0x10)]
      [(0x8000, 0xE4E12001), (0x1000, 0x44332211)]))
      (fun t => (t.getPhys .r1, t.wordAt 0x1000, t.pc)) =
      some (0x1001, some 0x44332210, 0x8004) := by decide

/-- By hand from R123 and R131. -/
theorem test_strbtReg :
    after (step (cpu 0x13 [(.r0, 0xBADF00D), (.r1, 0x1000), (.r2, 0x10)]
      [(0x8000, 0xE6E10002), (0x1000, 0x44332211)]))
      (fun t => (t.getPhys .r1, t.wordAt 0x1000, t.pc)) =
      some (0x1010, some 0x4433220D, 0x8004) := by decide

/-- Spec 95 section 2.4. -/
theorem test_ldrhImmPre :
    after (step (cpu 0x10 [(.r0, 0xBADF00D), (.r1, 0x1000), (.r3, 0xFFFFFFFE)]
      [(0x8000, 0xE1D100B2), (0x1000, 0x80FF7F00)]))
      (fun t => (t.getPhys .r0, t.pc)) =
      some (0x80FF, 0x8004) := by decide

/-- By hand from R150, R151 and R153 to R158. -/
theorem test_ldrhImmPost :
    after (step (cpu 0x10 [(.r0, 0xBADF00D), (.r1, 0x1000), (.r3, 0xFFFFFFFE)]
      [(0x8000, 0xE0D100B2), (0x1000, 0x80FF7F00)]))
      (fun t => (t.getPhys .r0, t.getPhys .r1, t.pc)) =
      some (0x7F00, 0x1002, 0x8004) := by decide

/-- Spec 95 section 2.4. -/
theorem test_ldrhRegPre :
    after (step (cpu 0x10 [(.r0, 0xBADF00D), (.r1, 0x1000), (.r3, 0xFFFFFFFE)]
      [(0x8000, 0xE11100B3), (0x1000, 0x80FF7F00)]))
      (fun t => (t.getPhys .r0, t.pc)) =
      some (0x80FF, 0x8004) := by decide

/-- Spec 95 section 2.4. -/
theorem test_ldrhRegPost :
    after (step (cpu 0x10 [(.r0, 0xBADF00D), (.r1, 0x1000), (.r3, 0xFFFFFFFE)]
      [(0x8000, 0xE09100B3), (0x1000, 0x80FF7F00)]))
      (fun t => (t.getPhys .r0, t.getPhys .r1, t.pc)) =
      some (0x7F00, 0xFFE, 0x8004) := by decide

/-- Spec 95 section 2.4. -/
theorem test_strhImmPre :
    after (step (cpu 0x10 [(.r0, 0xBADF00D), (.r1, 0x1000), (.r3, 0xFFFFFFFE)]
      [(0x8000, 0xE1E130B2), (0x1000, 0x80FF7F00)]))
      (fun t => (t.getPhys .r1, t.wordAt 0x1000, t.pc)) =
      some (0x1002, some 0xFFFE7F00, 0x8004) := by decide

/-- Spec 95 section 2.4. -/
theorem test_strhImmPost :
    after (step (cpu 0x10 [(.r0, 0xBADF00D), (.r1, 0x1000), (.r3, 0xFFFFFFFE)]
      [(0x8000, 0xE04100B2), (0x1000, 0x80FF7F00)]))
      (fun t => (t.getPhys .r1, t.wordAt 0x1000, t.pc)) =
      some (0xFFE, some 0x80FFF00D, 0x8004) := by decide

/-- By hand from R150, R151 and R153 to R158. -/
theorem test_strhRegPre :
    after (step (cpu 0x10 [(.r0, 0xBADF00D), (.r1, 0x1000), (.r3, 0xFFFFFFFE)]
      [(0x8000, 0xE18100B3), (0xFFC, 0x80007FFF)]))
      (fun t => (t.getPhys .r1, t.wordAt 0xFFC, t.pc)) =
      some (0x1000, some 0xF00D7FFF, 0x8004) := by decide

/-- By hand from R150, R151 and R153 to R158. -/
theorem test_strhRegPost :
    after (step (cpu 0x10 [(.r0, 0xBADF00D), (.r1, 0x1000), (.r3, 0xFFFFFFFE)]
      [(0x8000, 0xE08100B3), (0x1000, 0x80FF7F00)]))
      (fun t => (t.getPhys .r1, t.wordAt 0x1000, t.pc)) =
      some (0xFFE, some 0x80FFF00D, 0x8004) := by decide

/-- Spec 95 section 2.4. -/
theorem test_ldrsbImmPre :
    after (step (cpu 0x10 [(.r0, 0xBADF00D), (.r1, 0x1000), (.r3, 0xFFFFFFFE)]
      [(0x8000, 0xE1F100D3), (0x1000, 0x80FF7F00)]))
      (fun t => (t.getPhys .r0, t.getPhys .r1, t.pc)) =
      some (0xFFFFFF80, 0x1003, 0x8004) := by decide

/-- By hand from R150, R151 and R153 to R158. -/
theorem test_ldrsbImmPost :
    after (step (cpu 0x10 [(.r0, 0xBADF00D), (.r1, 0x1000), (.r3, 0xFFFFFFFE)]
      [(0x8000, 0xE0D100D1), (0x1000, 0x80FF7F00)]))
      (fun t => (t.getPhys .r0, t.getPhys .r1, t.pc)) =
      some (0x0, 0x1001, 0x8004) := by decide

/-- By hand from R150, R151 and R153 to R158. -/
theorem test_ldrsbRegPre :
    after (step (cpu 0x10 [(.r0, 0xBADF00D), (.r1, 0x1000), (.r3, 0xFFFFFFFE)]
      [(0x8000, 0xE11100D3), (0x1000, 0x80FF7F00)]))
      (fun t => (t.getPhys .r0, t.getPhys .r1, t.pc)) =
      some (0xFFFFFFFF, 0x1000, 0x8004) := by decide

/-- By hand from R150, R151 and R153 to R158. -/
theorem test_ldrsbRegPost :
    after (step (cpu 0x10 [(.r0, 0xBADF00D), (.r1, 0x1000), (.r3, 0xFFFFFFFE)]
      [(0x8000, 0xE01100D3), (0x1000, 0x80FF7F00)]))
      (fun t => (t.getPhys .r0, t.getPhys .r1, t.pc)) =
      some (0x0, 0x1002, 0x8004) := by decide

/-- Spec 95 section 2.4. -/
theorem test_ldrshImmPre :
    after (step (cpu 0x10 [(.r0, 0xBADF00D), (.r1, 0x1000), (.r3, 0xFFFFFFFE)]
      [(0x8000, 0xE15100F2), (0xFFC, 0x80007FFF)]))
      (fun t => (t.getPhys .r0, t.pc)) =
      some (0xFFFF8000, 0x8004) := by decide

/-- By hand from R150, R151 and R153 to R158. -/
theorem test_ldrshImmPost :
    after (step (cpu 0x10 [(.r0, 0xBADF00D), (.r1, 0x1000), (.r3, 0xFFFFFFFE)]
      [(0x8000, 0xE0D100F2), (0x1000, 0x80FF7F00)]))
      (fun t => (t.getPhys .r0, t.getPhys .r1, t.pc)) =
      some (0x7F00, 0x1002, 0x8004) := by decide

/-- By hand from R150, R151 and R153 to R158. -/
theorem test_ldrshRegPre :
    after (step (cpu 0x10 [(.r0, 0xBADF00D), (.r1, 0x1000), (.r3, 0xFFFFFFFE)]
      [(0x8000, 0xE11100F3), (0x1000, 0x80FF7F00)]))
      (fun t => (t.getPhys .r0, t.pc)) =
      some (0xFFFF80FF, 0x8004) := by decide

/-- By hand from R150, R151 and R153 to R158. -/
theorem test_ldrshRegPost :
    after (step (cpu 0x10 [(.r0, 0xBADF00D), (.r1, 0x1000), (.r3, 0xFFFFFFFE)]
      [(0x8000, 0xE09100F3), (0x1000, 0x80FF7F00)]))
      (fun t => (t.getPhys .r0, t.getPhys .r1, t.pc)) =
      some (0x7F00, 0xFFE, 0x8004) := by decide

/-- Spec 95 section 2.4. -/
theorem test_odd_halfword :
    refusal (step (cpu 0x10 [(.r0, 0xBADF00D), (.r1, 0x1000), (.r3, 0xFFFFFFFE)]
      [(0x8000, 0xE1C100B1), (0x1000, 0x80FF7F00)])) =
      some .unalignedHalfword := by decide

/-- Spec 95 section 1.9. -/
theorem test_ldmia :
    after (step (cpu 0x10 [(.r0, 0x1000)]
      [(0x8000, 0xE8B0000E), (0x1000, 0x100), (0x1004, 0x104), (0x1008, 0x108)]))
      (fun t => (t.getPhys .r1, t.getPhys .r2, t.getPhys .r3, t.getPhys .r0, t.pc)) =
      some (0x100, 0x104, 0x108, 0x100C, 0x8004) := by decide

/-- Spec 95 section 1.9. -/
theorem test_ldmib :
    after (step (cpu 0x10 [(.r0, 0x1000)]
      [(0x8000, 0xE9B0000E), (0x1004, 0x104), (0x1008, 0x108), (0x100C, 0x10C)]))
      (fun t => (t.getPhys .r1, t.getPhys .r2, t.getPhys .r3, t.getPhys .r0, t.pc)) =
      some (0x104, 0x108, 0x10C, 0x100C, 0x8004) := by decide

/-- Spec 95 section 1.9. -/
theorem test_ldmda :
    after (step (cpu 0x10 [(.r0, 0x1000)]
      [(0x8000, 0xE830000E), (0xFF8, 0xF8), (0xFFC, 0xFC), (0x1000, 0x100)]))
      (fun t => (t.getPhys .r1, t.getPhys .r2, t.getPhys .r3, t.getPhys .r0, t.pc)) =
      some (0xF8, 0xFC, 0x100, 0xFF4, 0x8004) := by decide

/-- Spec 95 section 1.9. -/
theorem test_ldmdb :
    after (step (cpu 0x10 [(.r0, 0x1000)]
      [(0x8000, 0xE930000E), (0xFF4, 0xF4), (0xFF8, 0xF8), (0xFFC, 0xFC)]))
      (fun t => (t.getPhys .r1, t.getPhys .r2, t.getPhys .r3, t.getPhys .r0, t.pc)) =
      some (0xF4, 0xF8, 0xFC, 0xFF4, 0x8004) := by decide

/-- Spec 95 section 1.9. -/
theorem test_stmia :
    after (step (cpu 0x10 [(.r0, 0x1000), (.r1, 0x11), (.r2, 0x22), (.r3, 0x33)]
      [(0x8000, 0xE8A0000E)]))
      (fun t => (t.wordAt 0x1000, t.wordAt 0x1004, t.wordAt 0x1008, t.getPhys .r0, t.pc)) =
      some (some 0x11, some 0x22, some 0x33, 0x100C, 0x8004) := by decide

/-- Spec 95 section 1.9. -/
theorem test_stmib :
    after (step (cpu 0x10 [(.r0, 0x1000), (.r1, 0x11), (.r2, 0x22), (.r3, 0x33)]
      [(0x8000, 0xE9A0000E)]))
      (fun t => (t.wordAt 0x1004, t.wordAt 0x1008, t.wordAt 0x100C, t.getPhys .r0, t.pc)) =
      some (some 0x11, some 0x22, some 0x33, 0x100C, 0x8004) := by decide

/-- Spec 95 section 1.9. -/
theorem test_stmda :
    after (step (cpu 0x10 [(.r0, 0x1000), (.r1, 0x11), (.r2, 0x22), (.r3, 0x33)]
      [(0x8000, 0xE820000E)]))
      (fun t => (t.wordAt 0xFF8, t.wordAt 0xFFC, t.wordAt 0x1000, t.getPhys .r0, t.pc)) =
      some (some 0x11, some 0x22, some 0x33, 0xFF4, 0x8004) := by decide

/-- Spec 95 section 1.9. -/
theorem test_stmdb :
    after (step (cpu 0x10 [(.r0, 0x1000), (.r1, 0x11), (.r2, 0x22), (.r3, 0x33)]
      [(0x8000, 0xE920000E)]))
      (fun t => (t.wordAt 0xFF4, t.wordAt 0xFF8, t.wordAt 0xFFC, t.getPhys .r0, t.pc)) =
      some (some 0x11, some 0x22, some 0x33, 0xFF4, 0x8004) := by decide

/-- Spec 95 section 2.5. -/
theorem test_ldmia_to_the_pc :
    after (step (cpu 0x10 [(.r13, 0x2000)]
      [(0x8000, 0xE8BD8002), (0x2000, 0x55), (0x2004, 0x9000)]))
      (fun t => (t.getPhys .r1, t.getPhys .r13, t.cpsr, t.pc)) =
      some (0x55, 0x2008, 0x10, 0x9000) := by decide

/-- Spec 95 section 2.5. -/
theorem test_stmia_with_its_base :
    after (step (cpu 0x10 [(.r0, 0x1010), (.r1, 0x11111111)]
      [(0x8000, 0xE8A00003)]))
      (fun t => (t.wordAt 0x1010, t.wordAt 0x1014, t.getPhys .r0)) =
      some (some 0x1010, some 0x11111111, 0x1018) := by decide

/-- Spec 95 section 2.6. -/
theorem test_ldmiaRet :
    after (step ({ cpu 0x600000D3 [(.r13_svc, 0x2000)]
      [(0x8000, 0xE8FD8002), (0x2000, 0xA), (0x2004, 0x9000)] with
      spsrSvc := 0x80000010 }))
      (fun t => (t.getPhys .r1, t.getPhys .r13_svc, t.cpsr, t.pc)) =
      some (0xA, 0x2008, 0x80000010, 0x9000) := by decide

/-- By hand from R170 and R183. -/
theorem test_ldmibRet :
    after (step ({ cpu 0x600000D3 [(.r0, 0x3000)]
      [(0x8000, 0xE9D08002), (0x3000, 0xBEE0), (0x3004, 0xBEE4), (0x3008, 0xBEE8)] with
      spsrSvc := 0x80000010 }))
      (fun t => (t.getPhys .r1, t.cpsr, t.pc)) =
      some (0xBEE4, 0x80000010, 0xBEE8) := by decide

/-- By hand from R170 and R183. -/
theorem test_ldmdaRet :
    after (step ({ cpu 0x600000D3 [(.r0, 0x3004)]
      [(0x8000, 0xE8508002), (0x3000, 0xBEE0), (0x3004, 0xBEE4), (0x3008, 0xBEE8)] with
      spsrSvc := 0x80000010 }))
      (fun t => (t.getPhys .r1, t.cpsr, t.pc)) =
      some (0xBEE0, 0x80000010, 0xBEE4) := by decide

/-- By hand from R170 and R183. -/
theorem test_ldmdbRet :
    after (step ({ cpu 0x600000D3 [(.r0, 0x3008)]
      [(0x8000, 0xE9508002), (0x3000, 0xBEE0), (0x3004, 0xBEE4), (0x3008, 0xBEE8)] with
      spsrSvc := 0x80000010 }))
      (fun t => (t.getPhys .r1, t.cpsr, t.pc)) =
      some (0xBEE0, 0x80000010, 0xBEE4) := by decide

/-- Spec 95 section 2.6. -/
theorem test_return_to_no_mode :
    refusal (step ({ cpu 0x600000DB [(.r0, 0x3000)]
      [(0x8000, 0xE8D08002), (0x3000, 0xBEE0), (0x3004, 0xBEE4), (0x3008, 0xBEE8)] with
      spsrUnd := 0x00000005 })) =
      some .illegalMode := by decide

/-- Spec 95 section 2.6. -/
theorem test_return_in_user_mode :
    refusal (step (cpu 0x60000010 [(.r0, 0x3000)]
      [(0x8000, 0xE8D08002), (0x3000, 0xBEE0), (0x3004, 0xBEE4), (0x3008, 0xBEE8)])) =
      some .noSpsr := by decide

/-- Spec 95 section 2.6. -/
theorem test_ldmiaUsr :
    after (step (cpu 0x600000D3 [(.r0, 0x3000), (.r13_svc, 0x2000)]
      [(0x8000, 0xE8D06000), (0x3000, 0xBEE0), (0x3004, 0xBEE4), (0x3008, 0xBEE8)]))
      (fun t => (t.getPhys .r13, t.getPhys .r14, t.getPhys .r13_svc, t.bankHazard, t.pc)) =
      some (0xBEE0, 0xBEE4, 0x2000, true, 0x8004) := by decide

/-- By hand from R170 and R184. -/
theorem test_ldmibUsr :
    after (step (cpu 0x600000D3 [(.r0, 0x3000), (.r13_svc, 0x2000)]
      [(0x8000, 0xE9D06000), (0x3000, 0xBEE0), (0x3004, 0xBEE4), (0x3008, 0xBEE8)]))
      (fun t => (t.getPhys .r13, t.getPhys .r14, t.getPhys .r13_svc, t.bankHazard, t.pc)) =
      some (0xBEE4, 0xBEE8, 0x2000, true, 0x8004) := by decide

/-- By hand from R170 and R184. -/
theorem test_ldmdaUsr :
    after (step (cpu 0x600000D3 [(.r0, 0x3004), (.r13_svc, 0x2000)]
      [(0x8000, 0xE8506000), (0x3000, 0xBEE0), (0x3004, 0xBEE4), (0x3008, 0xBEE8)]))
      (fun t => (t.getPhys .r13, t.getPhys .r14, t.getPhys .r13_svc, t.bankHazard, t.pc)) =
      some (0xBEE0, 0xBEE4, 0x2000, true, 0x8004) := by decide

/-- By hand from R170 and R184. -/
theorem test_ldmdbUsr :
    after (step (cpu 0x600000D3 [(.r0, 0x3008), (.r13_svc, 0x2000)]
      [(0x8000, 0xE9506000), (0x3000, 0xBEE0), (0x3004, 0xBEE4), (0x3008, 0xBEE8)]))
      (fun t => (t.getPhys .r13, t.getPhys .r14, t.getPhys .r13_svc, t.bankHazard, t.pc)) =
      some (0xBEE0, 0xBEE4, 0x2000, true, 0x8004) := by decide

/-- Spec 95 section 2.6. -/
theorem test_stmiaUsr :
    after (step (cpu 0x600000D3 [(.r0, 0x3000), (.r13, 0x7FFF0), (.r14, 0x8120), (.r13_svc, 0x2000), (.r14_svc, 0xAAAA)]
      [(0x8000, 0xE8C06000)]))
      (fun t => (t.wordAt 0x3000, t.wordAt 0x3004, t.pc)) =
      some (some 0x7FFF0, some 0x8120, 0x8004) := by decide

/-- By hand from R170 and R185. -/
theorem test_stmibUsr :
    after (step (cpu 0x600000D3 [(.r0, 0x3000), (.r13, 0x7FFF0), (.r14, 0x8120), (.r13_svc, 0x2000), (.r14_svc, 0xAAAA)]
      [(0x8000, 0xE9C06000)]))
      (fun t => (t.wordAt 0x3004, t.wordAt 0x3008, t.pc)) =
      some (some 0x7FFF0, some 0x8120, 0x8004) := by decide

/-- By hand from R170 and R185. -/
theorem test_stmdaUsr :
    after (step (cpu 0x600000D3 [(.r0, 0x3004), (.r13, 0x7FFF0), (.r14, 0x8120), (.r13_svc, 0x2000), (.r14_svc, 0xAAAA)]
      [(0x8000, 0xE8406000)]))
      (fun t => (t.wordAt 0x3000, t.wordAt 0x3004, t.pc)) =
      some (some 0x7FFF0, some 0x8120, 0x8004) := by decide

/-- Spec 95 section 2.6: FIQ mode. -/
theorem test_stmdbUsr :
    after (step (cpu 0x600000D1 [(.r0, 0x3000), (.r8, 0x8080808), (.r14, 0x8120), (.r8_fiq, 0xF8F8F8F8)]
      [(0x8000, 0xE9404100)]))
      (fun t => (t.wordAt 0x2FF8, t.wordAt 0x2FFC, t.pc)) =
      some (some 0x8080808, some 0x8120, 0x8004) := by decide

/-- Spec 95 section 2.7, at 0x8000. -/
theorem test_swi :
    after (step (cpu 0x60000010 []
      [(0x8000, 0xEF123456)]))
      (fun t => (t.getPhys .r14_svc, t.cpsr, t.spsrSvc, t.pc)) =
      some (0x8004, 0x60000093, 0x60000010, 0x8) := by decide

/-- Spec 95 section 2.7. -/
theorem test_swi_not_executed :
    after (step (cpu 0x40000010 []
      [(0x8000, 0x1F000042)]))
      (fun t => (t.getPhys .r14_svc, t.cpsr, t.pc)) =
      some (0x0, 0x40000010, 0x8004) := by decide

/-- Spec 95 section 2.8: Rd = Rm. -/
theorem test_swp :
    after (step (cpu 0x10 [(.r1, 0xFF), (.r2, 0x5000)]
      [(0x8000, 0xE1021091), (0x5000, 0x80C0E0F0)]))
      (fun t => (t.getPhys .r1, t.wordAt 0x5000, t.pc)) =
      some (0x80C0E0F0, some 0xFF, 0x8004) := by decide

/-- Spec 95 section 2.8. -/
theorem test_swp_unaligned :
    refusal (step (cpu 0x10 [(.r3, 0x5002)]
      [(0x8000, 0xE1030091), (0x5000, 0x80C0E0F0)])) =
      some .unalignedSwap := by decide

/-- Spec 95 section 2.8. -/
theorem test_swpb :
    after (step (cpu 0x10 [(.r0, 0xBADF00D), (.r3, 0x5002)]
      [(0x8000, 0xE1430090), (0x5000, 0x80C0E0F0)]))
      (fun t => (t.getPhys .r0, t.wordAt 0x5000, t.pc)) =
      some (0xC0, some 0x800DE0F0, 0x8004) := by decide

/-- Spec 95 section 2.9. -/
theorem test_clz :
    after (step (cpu 0x10 [(.r1, 0x800001)]
      [(0x8000, 0xE16F0F11)]))
      (fun t => (t.getPhys .r0, t.pc)) =
      some (0x8, 0x8004) := by decide

/-- Spec 95 section 2.9. -/
theorem test_clz_of_zero :
    after (step (cpu 0x10 [(.r0, 0xBADF00D)]
      [(0x8000, 0xE16F0F11)]))
      (fun t => (t.getPhys .r0, t.pc)) =
      some (0x20, 0x8004) := by decide

/-- Spec 95 section 2.10. -/
theorem test_mrc :
    after (step (cpu 0xD3 []
      [(0x8000, 0xEE110F10)]))
      (fun t => (t.getPhys .r0, t.pc)) =
      some (0x50078, 0x8004) := by decide

/-- Spec 95 section 2.10. -/
theorem test_mrc_in_user_mode :
    after (step (cpu 0x10 []
      [(0x8000, 0xEE100F10)]))
      (fun t => (t.getPhys .r14_und, t.cpsr, t.spsrUnd, t.pc)) =
      some (0x8004, 0x9B, 0x10, 0x4) := by decide

/-- Spec 95 section 2.10. -/
theorem test_mcr :
    after (step (cpu 0xD3 [(.r1, 0x5007A)]
      [(0x8000, 0xEE011F10)]))
      (fun t => (t.alignFlag, t.cp15c1, t.pc)) =
      some (true, 0x5007A, 0x8004) := by decide

/-- Spec 95 section 2.10. -/
theorem test_mcr_of_other_bits :
    refusal (step (cpu 0xD3 [(.r3, 0x2)]
      [(0x8000, 0xEE013F10)])) =
      some .cp15ControlBitsNotModelled := by decide

/-! ## Exceptions, inputs and the fetch -/

/-- Spec 95 section 2.2. -/
theorem test_alignment_abort :
    after (step ({ cpu 0x10 [(.r0, 0xBADF00D), (.r1, 0x1000)]
      [(0x8000, 0xE5B10003), (0x1000, 0x44332211)] with
      cp15c1 := 0x5007A }))
      (fun t => (t.getPhys .r1, t.abortInfo, t.getPhys .r14_abt, t.cpsr, t.spsrAbt, t.pc)) =
      some (0x1000, some ⟨.alignment, 0x1003⟩, 0x8008, 0x97, 0x10, 0x10) := by decide

/-- Spec 95 section 2.5: the base and the entry; the loaded registers are drawn. -/
theorem test_aborted_ldm :
    after (step ({ cpu 0x10 [(.r0, 0x1010)]
      [(0x8000, 0xE8B0000E), (0x1010, 0xB0), (0x1014, 0xB4), (0x1018, 0xB8)] with
      denials := [⟨0x1018, 0x1018, .word, .read, .user⟩] }))
      (fun t => (t.getPhys .r0, t.abortInfo, t.getPhys .r14_abt, t.cpsr, t.spsrAbt, t.pc)) =
      some (0x1010, some ⟨.permission, 0x1018⟩, 0x8008, 0x97, 0x10, 0x10) := by decide

/-- By hand from R220, R223 and R226. -/
theorem test_prefetch_abort :
    after (step ({ cpu 0x10 []
      [] with
      denials := [⟨0x8000, 0x8FFF, .word, .fetch, .user⟩] }))
      (fun t => (t.getPhys .r14_abt, t.cpsr, t.spsrAbt, t.abortInfo, t.pc)) =
      some (0x8004, 0x97, 0x10, none, 0xC) := by decide

/-- By hand from R220, R222 and R229. -/
theorem test_fiq_before_irq :
    after (step ({ cpu 0x10 []
      [] with
      lines := [⟨false, true, true⟩] }))
      (fun t => (t.getPhys .r14_fiq, t.cpsr, t.spsrFiq, t.pc)) =
      some (0x8004, 0xD1, 0x10, 0x1C) := by decide

/-- By hand from R220, R222 and R229. -/
theorem test_irq_with_fiq_masked :
    after (step ({ cpu 0x50 []
      [] with
      lines := [⟨false, true, true⟩] }))
      (fun t => (t.getPhys .r14_irq, t.cpsr, t.spsrIrq, t.pc)) =
      some (0x8004, 0xD2, 0x50, 0x18) := by decide

/-- By hand from R40 and R228. -/
theorem test_reset_input :
    after (step ({ cpu 0x10 []
      [] with
      cp15c1 := 0x5007A, lines := [⟨true, true, true⟩] }))
      (fun t => (t.alignFlag, t.cp15c1, t.pc)) =
      some (false, 0x50078, 0x0) := by decide

/-- By hand from R72. -/
theorem test_written_word_not_fetched :
    refusal (step ({ cpu 0x10 []
      [(0x8000, 0xE16F0F11)] with
      written := [0x8003] })) =
      some .fetchFromWrittenLocation := by decide

/-- By hand from R266: CLZ r0, r13. -/
theorem test_banked_register_after_user_ldm :
    refusal (step ({ cpu 0xD3 []
      [(0x8000, 0xE16F0F1D)] with
      bankHazard := true })) =
      some .bankedRegisterHazard := by decide

/-- By hand from R266: CLZ r0, r12 in Supervisor mode. -/
theorem test_unbanked_register_after_user_ldm :
    after (step ({ cpu 0xD3 []
      [(0x8000, 0xE16F0F1C)] with
      bankHazard := true }))
      (fun t => (t.getPhys .r0, t.bankHazard)) =
      some (0x20, false) := by decide

/-- By hand from R24. -/
theorem test_last_word_of_memory :
    refusal (step ({ cpu 0x10 []
      [(0xFFFFFFFC, 0xE16F0F11)] with
      pc := 0xFFFFFFFC })) =
      some .addressWrap := by decide

/-! ## The end of a run (spec 70_reset_and_hazards.md R269) -/

/-- The word at the exit address has no value, and is not fetched. -/
theorem test_run_ends_at_the_exit_address :
    (Launch.mk (cpu 0x10 [] []) (.exitAddress 0x8000)).run 1 = .ended (cpu 0x10 [] []) := by decide

/-- LDR r0, [r1] and the end after one step; with no step left to follow it goes on. -/
theorem test_run_ends_after_its_steps :
    let l : Launch :=
      ⟨cpu 0x10 [(.r1, 0x1000)] [(0x8000, 0xE5910000), (0x1000, 7)], .afterSteps 1⟩
    (match l.run 1 with
      | .ended s => decide (s.readReg .usr 0 = 7 ∧ s.pc = 0x8004)
      | _ => false) = true ∧ l.run 0 = .goesOn l.start := by decide

/-- From reset with nothing in memory the first fetch faults (log 21). -/
theorem test_run_from_reset_faults :
    (match (Launch.fromReset (.afterSteps 1)).run 1 with
      | .faulted f _ => f == .unwrittenState
      | _ => false) = true := by decide

/-! ## The assembler layer (spec 95 sections 1.10, 1.13 and 1.18) -/

theorem test_strneb :
    (assemble 0 (.transfer false (some .ne) .b false 0 (.pre 1 (.reg false 2 (some (.lsl 2))) true))).map
      encode = .ok 0x17610102 := by decide

theorem test_ldreqbt :
    (assemble 0 (.transfer true (some .eq) .b true 0 (.post 1 (.imm true 1)))).map encode =
      .ok 0x04F10001 := by decide

theorem test_ldr_label :
    (assemble 0x8004 (.transfer true none .word false 4 (.label 0x8020))).map encode =
      .ok 0xE59F4014 := by decide

/-- Across the end of the address space (spec 00_scope.md R7): 0xFFFFFFF8 + 8 is 0. -/
theorem test_ldr_label_across_the_end :
    (assemble 0xFFFFFFF8 (.transfer true none .word false 4 (.label 0x10))).map encode =
        .ok 0xE59F4010 ∧
      (assemble 0 (.transfer false none .word false 4 (.label 0xFFFFFFFC))).map encode =
        .ok 0xE50F400C := by decide

/-- 4095 bytes either way are reached, 4096 are not. -/
theorem test_ldr_label_range :
    (assemble 0x8000 (.transfer true none .word false 0 (.label 0x9007))).map encode =
        .ok 0xE59F0FFF ∧
      assemble 0x8000 (.transfer true none .word false 0 (.label 0x9008)) = .error .labelRange ∧
      (assemble 0x8000 (.transfer true none .word false 0 (.label 0x7009))).map encode =
        .ok 0xE51F0FFF ∧
      assemble 0x8000 (.transfer true none .word false 0 (.label 0x7008)) = .error .labelRange := by
  decide

/-- Spec 95 section 2, the line `MRCNE p15, 0, r0, c1, c0, 0`; without a suffix the condition is AL
(R215). -/
theorem test_mrc_condition :
    (assemble 0 (.mrc (some .ne) 0 1 0 0)).map encode = .ok 0x1E110F10 ∧
      (assemble 0 (.mrc none 0 1 0 0)).map encode = .ok 0xEE110F10 := by decide

theorem test_ldrgesh :
    (assemble 0 (.transfer true (some .ge) .sh false 0 (.pre 1 (.imm false 255) true))).map encode =
      .ok 0xA1710FFF := by decide

theorem test_strh_post :
    (assemble 0 (.transfer false none .h false 0 (.post 1 (.reg true 2 none)))).map encode =
      .ok 0xE08100B2 := by decide

theorem test_ldmfd_and_stmfd :
    (assemble 0 (.block true none .fd 0 true [3, 1, 2] false)).map encode = .ok 0xE8B0000E ∧
      (assemble 0 (.block false none .fd 0 true [1, 2, 3] false)).map encode = .ok 0xE920000E := by
  decide

theorem test_caret_lines :
    (assemble 0 (.block true none .fd 13 true [0, 1, 15] true)).map encode = .ok 0xE8FD8003 ∧
      assemble 0 (.block false none (.block .ia) 0 true [13, 14] true) = .error .caretWriteBack ∧
      assemble 0 (.block false none (.block .ia) 0 false [1, 15] true) = .error .caretStorePc := by
  decide

theorem test_strsh_is_no_store :
    assemble 0 (.transfer false none .sh false 0 (.plain 1)) = .error .noSuchStore := by decide

/-! ## Witnesses: the hypotheses of each statement, met together -/

/-- User mode with two words of data. -/
def usr : State :=
  cpu 0x10 [(.r0, 0x0BADF00D), (.r1, 0x1000), (.r2, 4)] [(0x1000, 0x44332211), (0x1004, 0x88776655)]

/-- Supervisor mode, interrupts masked, a return to User mode in SPSR_svc. -/
def svc : State :=
  { cpu 0xD3 [(.r0, 0x1000), (.r1, 0x5007A), (.r13, 0x3000)]
      [(0x1000, 0x11), (0x1004, 0x22), (0x1008, 0x9000)] with spsrSvc := 0x80000010 }

/-- User mode with a word where the next instruction is fetched. -/
def fetching (w : Word) : State := cpu 0x10 [(.r1, 0x1000)] [(0x8000, w), (0x1000, 0x44332211)]

theorem next_of_after {o : Host.Outcome State Fault Refusal} {f : State → Bool}
    (h : after o f = some true) : ∃ t, o = .next t ∧ f t = true := by
  cases o with
  | next t => exact ⟨t, rfl, Option.some.inj h⟩
  | fault => cases h
  | refused => cases h

theorem runs {s : State} {m : Mode} {c : Cond} (h : s.mode? = some m ∧ s.condPassed c = true) :
    Runs s m c := ⟨h.1, h.2⟩

theorem ready {s : State} {m : Mode} {c : Cond}
    (h : s.mode? = some m ∧ s.condPassed c = true ∧ s.pc ≠ 0xFFFFFFFC) : Ready s m c :=
  ⟨⟨h.1, h.2.1⟩, h.2.2⟩

theorem legal {f : Form} {n d : RegNum}
    (h : f.index ≠ some 15 ∧ (f.wb = true → n ≠ 15 ∧ n ≠ d ∧ f.index ≠ some n)) : f.Legal n d :=
  ⟨h.1, h.2⟩

theorem canRead {s : State} {p : Priv} {a : Word} {w : Width} {v : Word}
    (h : s.denied a w .read p = false ∧ s.valueAt a w = some v) : CanRead s p a w v := ⟨h.1, h.2⟩

theorem canReadAll {s : State} {p : Priv} {f : RegNum → Word} {list : BitVec 16} {v : RegNum → Word}
    (h : ∀ i, listed list i = true →
      s.denied (f i) .word .read p = false ∧ s.valueAt (f i) .word = some (v i)) :
    ∀ i, listed list i = true → CanRead s p (f i) .word (v i) := fun i hi => canRead (h i hi)

theorem atWord {s : State} {m : Mode}
    (h : s.params.endian = .little ∧ s.linesNow.reset = false ∧
      (s.linesNow.fiq = true → psrF s.cpsr = true) ∧ (s.linesNow.irq = true → psrI s.cpsr = true) ∧
      s.mode? = some m ∧ psrT s.cpsr = false ∧ s.pc.toNat % 4 = 0) : AtWord s m :=
  ⟨h.1, ⟨h.2.1, h.2.2.1, h.2.2.2.1⟩, h.2.2.2.2.1, h.2.2.2.2.2.1, h.2.2.2.2.2.2⟩

theorem fetches {s : State} {m : Mode} {w : Word} (h : AtWord s m)
    (k : s.denied s.pc .word .fetch m.priv = false ∧ s.written = [] ∧ s.wordAt s.pc = some w) :
    Fetches s m w := ⟨h, k.1, by rw [k.2.1]; simp, k.2.2⟩

theorem blockReady {s : State} {m : Mode} {b : BlockMode} {n : RegNum} {list : BitVec 16}
    (h : list ≠ 0 ∧ n ≠ 15 ∧ (s.readReg m n).toNat % 4 = 0) (k : Fits b (s.readReg m n) list) :
    BlockReady s m b n list := ⟨h.1, h.2.1, h.2.2, k⟩

theorem inv {s : State} (h : Memory.wf s.mem = true ∧ s.written = [] ∧ s.pc.extractLsb' 0 2 = 0 ∧
    s.mode?.isSome ∧ psrT s.cpsr = false) : Inv s :=
  ⟨h.1, by rw [h.2.1]; rfl, by rw [h.2.1]; simp, h.2.2.1, h.2.2.2.1, h.2.2.2.2⟩

/-! Decoding and the step. -/

theorem test_witness_decode_of_encode :
    (Instr.ldmiaRet .al true 13 0x8001).wellFormed = true ∧ (Instr.swi .al 0xFFFFFF).wellFormed = true := by
  decide

theorem test_witness_encode_of_decode :
    decodeWord 0xE8FD8001 = .ok (.ldmiaRet .al true 13 0x8001) := by decide

theorem test_witness_rows :
    (0xE5910000 : Word) &&& (Instr.ldrImmPre .eq false true 0 0 0).row.1 =
        (Instr.ldrImmPre .eq false true 0 0 0).row.2 ∧
      (0xE5910000 : Word) &&& (Instr.ldrImmPre .al true false 1 0 0).row.1 =
        (Instr.ldrImmPre .al true false 1 0 0).row.2 ∧
      (0xE5910000 : Word).extractLsb' 28 4 ≠ 15 ∧
      decodeWord 0xE5910000 = .ok (.ldrImmPre .al true false 1 0 0) := by decide

theorem test_witness_condition_1111 :
    Fetches (fetching 0xF5910000) .usr 0xF5910000 ∧ (0xF5910000 : Word).extractLsb' 28 4 = 15 :=
  ⟨fetches (atWord (by decide)) (by decide), by decide⟩

theorem test_witness_not_admitted :
    Fetches (fetching 0xEA000000) .usr 0xEA000000 ∧ (0xEA000000 : Word).extractLsb' 28 4 ≠ 15 ∧
      ∀ i : Instr, (0xEA000000 : Word) &&& i.row.1 ≠ i.row.2 := by
  refine ⟨fetches (atWord (by decide)) (by decide), by decide, fun i => ?_⟩
  cases i <;> simp only [Instr.row] <;> decide

theorem test_witness_step_runs :
    Fetches { fetching 0xE5910000 with bankHazard := true } .usr 0xE5910000 ∧
      decode (bytesOfWord 0xE5910000) = .ok (.ldrImmPre .al true false 1 0 0, []) ∧
      ∀ r ∈ operandRegs (.ldrImmPre .al true false 1 0 0), physReg .usr r = physReg .usr r :=
  ⟨fetches (atWord (by decide)) (by decide), by decide, by decide⟩

theorem test_witness_fiq :
    let s := { usr with lines := [⟨false, true, true⟩] }
    s.params.endian = .little ∧ s.linesNow.reset = false ∧ s.linesNow.fiq = true ∧
      psrF s.cpsr = false := by decide

theorem test_witness_irq :
    let s := { cpu 0x50 [] [] with lines := [⟨false, true, true⟩] }
    s.params.endian = .little ∧ s.linesNow.reset = false ∧
      (s.linesNow.fiq = true → psrF s.cpsr = true) ∧ s.linesNow.irq = true ∧ psrI s.cpsr = false := by
  decide

theorem test_witness_denied_fetch :
    let s := { usr with denials := [⟨0x8000, 0x8000, .word, .fetch, .user⟩] }
    AtWord s .usr ∧ s.denied s.pc .word .fetch Mode.usr.priv = true :=
  ⟨atWord (by decide), by decide⟩

/-- The last byte of the fetched word was written. -/
theorem test_witness_fetch_from_written :
    let s := { usr with written := [0x8003] }
    AtWord s .usr ∧ s.denied s.pc .word .fetch Mode.usr.priv = false ∧ span s.pc 4 0x8003 ∧
      (0x8003 : Word).toNat ∈ s.written :=
  ⟨atWord (by decide), by decide, ⟨3, by decide, by decide⟩, by decide⟩

theorem test_witness_banked_hazard :
    let s := { cpu 0xD3 [] [(0x8000, 0xE16F0F1D)] with bankHazard := true }
    Fetches s .svc 0xE16F0F1D ∧ decodeWord 0xE16F0F1D = .ok (.clz .al 0 13) ∧ s.bankHazard = true ∧
      13 ∈ operandRegs (.clz .al 0 13) ∧ physReg .svc 13 ≠ physReg .usr 13 ∧
      s.params.hasClz = true :=
  ⟨fetches (atWord (by decide)) (by decide), by decide, by decide, by decide, by decide, by decide⟩

theorem test_witness_banked_hazard_without_clz :
    let s := { cpu 0xD3 [] [(0x8000, 0xE16F0F1D)] with
      bankHazard := true, params := ⟨false, false, .little, .plus8⟩ }
    Fetches s .svc 0xE16F0F1D ∧ decodeWord 0xE16F0F1D = .ok (.clz .al 0 13) ∧ s.bankHazard = true ∧
      13 ∈ operandRegs (.clz .al 0 13) ∧ physReg .svc 13 ≠ physReg .usr 13 ∧
      s.params.hasClz = false ∧ refusal (step s) = some .notAdmitted :=
  ⟨fetches (atWord (by decide)) (by decide), by decide, by decide, by decide, by decide, by decide,
    by decide⟩

theorem test_witness_reset_input :
    let s := { usr with lines := [⟨true, true, true⟩] }
    s.params.endian = .little ∧ s.linesNow.reset = true := by decide

/-! Invariants and whole-machine rules. -/

theorem test_witness_step_keeps_inv :
    Inv (fetching 0xE5910000) ∧ ∃ t, step (fetching 0xE5910000) = .next t ∧ true = true :=
  ⟨inv (by decide), next_of_after (f := fun _ => true) (by decide)⟩

/-- User mode is left, and it is stayed in. -/
theorem test_witness_user_steps :
    (fetching 0xEF000000).mode? = some .usr ∧
      (∃ t, step (fetching 0xEF000000) = .next t ∧ decide (t.mode? = some .svc) = true) ∧
      (fetching 0xE5910000).mode? = some .usr ∧
      ∃ t, step (fetching 0xE5910000) = .next t ∧ decide (t.mode? = some .usr) = true :=
  ⟨by decide, next_of_after (by decide), by decide, next_of_after (by decide)⟩

/-- A return that changes the flags. -/
theorem test_witness_flags :
    svc.mode? = some .svc ∧
      ∃ t, exec (.ldmiaRet .al false 0 0x8006) svc = .next t ∧
        decide (t.cpsr.extractLsb' 8 24 ≠ svc.cpsr.extractLsb' 8 24) = true :=
  ⟨by decide, next_of_after (by decide)⟩

/-- A store that changes a byte. -/
theorem test_witness_changed_bytes :
    let s := cpu 0x10 [(.r0, 0x55), (.r1, 0x1000)] [(0x8000, 0xE5C10000), (0x1000, 0x44332211)]
    ∃ t, step s = .next t ∧ decide (t.byteAt 0x1000 ≠ s.byteAt 0x1000) = true :=
  next_of_after (by decide)

/-! Conditions, registers, shifts, bytes. -/

theorem test_witness_failed_condition :
    usr.mode? = some .usr ∧ usr.condPassed (condOf (.clz .eq 0 1)) = false ∧
      usr.params.hasClz = true ∧ usr.pc ≠ 0xFFFFFFFC ∧
      { usr with pc := 0xFFFFFFFC }.condPassed (condOf (.swi .eq 0)) = false ∧
      { usr with pc := 0xFFFFFFFC }.pc = 0xFFFFFFFC := by decide

/-- The numbers at the edges of the banks: r7, r8, r12, r13, r14. -/
theorem test_witness_banks :
    physReg .fiq 7 = physReg .usr 7 ∧ physReg .fiq 8 ≠ physReg .usr 8 ∧
      physReg .irq 12 = physReg .usr 12 ∧ physReg .irq 13 ≠ physReg .usr 13 ∧
      physReg .sys 14 = physReg .usr 14 ∧ (14 : RegNum) ≠ 15 := by decide

theorem test_witness_shift : (1 : BitVec 5) ≠ 0 ∧ (31 : BitVec 5) ≠ 0 := by decide

theorem test_witness_bytes :
    usr.wordAt 0x1000 = some 0x44332211 ∧ usr.halfAt 0x1002 = some 0x4433 := by decide

/-- A word stored at the top of the address space, and the first byte past it. -/
theorem test_witness_store_bytes :
    (Width.word, 4) ∈ [(Width.byte, 1), (.half, 2), (.word, 4)] ∧ 3 < 4 ∧
      ¬ span 0xFFFFFFFC 4 0 := by
  refine ⟨by decide, by decide, ?_⟩
  rintro ⟨j, hj, e⟩
  have : j = 0 ∨ j = 1 ∨ j = 2 ∨ j = 3 := by omega
  rcases this with rfl | rfl | rfl | rfl <;> revert e <;> decide

/-! Single loads and stores: every form, with the base r1 and Rd = r0. -/

def sdts : List Sdt :=
  [.immPre true true 4, .immPost false 0xFFF, .regPre true false 1 .lsr 2, .regPost true 0 .ror 2]

def sdtTs : List SdtT := [.imm true 0xFFF, .reg false 31 .lsl 2]

def hsdts : List Hsdt := [.immPre true true 4, .immPost false 0xFF, .regPre true false 2, .regPost true 2]

theorem test_witness_ldr :
    Ready usr .usr .al ∧ (0 : RegNum) ≠ 15 ∧
      ∀ x ∈ sdts, (x.form usr .usr).Legal 1 0 ∧
        WordGoes usr ((x.form usr .usr).addr (usr.readReg .usr 1)) ∧
        ∃ v, CanRead usr Mode.usr.priv
          (wordBase ((x.form usr .usr).addr (usr.readReg .usr 1))) .word v := by
  refine ⟨ready (by decide), by decide, ?_⟩
  simp only [sdts, List.forall_mem_cons, List.not_mem_nil, false_implies, implies_true, and_true]
  exact ⟨⟨legal (by decide), .inl (by decide), 0x88776655, canRead (by decide)⟩,
    ⟨legal (by decide), .inl (by decide), 0x44332211, canRead (by decide)⟩,
    ⟨legal (by decide), .inr (by decide), 0x44332211, canRead (by decide)⟩,
    ⟨legal (by decide), .inl (by decide), 0x44332211, canRead (by decide)⟩⟩

/-- The four offsets of R57. -/
theorem test_witness_unaligned_ldr :
    Ready usr .usr .al ∧ usr.alignFlag = false ∧ usr.params.unalignedHw = false ∧
      usr.denied 0x1000 .word .read Mode.usr.priv = false ∧ usr.byteAt 0x1000 = some 0x11 ∧
      usr.byteAt (0x1000 + 1) = some 0x22 ∧ usr.byteAt (0x1000 + 2) = some 0x33 ∧
      usr.byteAt (0x1000 + 3) = some 0x44 ∧
      ∀ k ∈ [(0 : BitVec 12), 1, 2, 3], ((Sdt.immPre true false k).form usr .usr).Legal 1 0 ∧
        0x1000 = wordBase (((Sdt.immPre true false k).form usr .usr).addr (usr.readReg .usr 1)) := by
  refine ⟨ready (by decide), by decide, by decide, by decide, by decide, by decide, by decide,
    by decide, ?_⟩
  simp only [List.forall_mem_cons, List.not_mem_nil, false_implies, implies_true, and_true]
  exact ⟨⟨legal (by decide), by decide⟩, ⟨legal (by decide), by decide⟩,
    ⟨legal (by decide), by decide⟩, ⟨legal (by decide), by decide⟩⟩

/-- A jump, and a value whose bits 1:0 are not zero. -/
theorem test_witness_ldr_pc :
    Runs usr .usr .al ∧ ((Sdt.immPre true false 0).form usr .usr).Legal 1 15 ∧
      WordGoes usr 0x1003 ∧ WordGoes usr 0x1000 ∧
      CanRead usr Mode.usr.priv (wordBase 0x1003) .word 0x44332211 ∧
      CanRead usr Mode.usr.priv (wordBase 0x1000) .word 0x44332211 ∧
      ((0x44332211 : Word).rotateRight 24).toNat % 4 = 0 ∧ (0x44332211 : Word).toNat % 4 ≠ 0 :=
  ⟨runs (by decide), legal (by decide), .inr (by decide), .inl (by decide), canRead (by decide),
    canRead (by decide), by decide, by decide⟩

theorem test_witness_ldrb :
    Ready usr .usr .al ∧
      ∀ x ∈ sdts, (x.form usr .usr).Legal 1 0 ∧
        usr.denied ((x.form usr .usr).addr (usr.readReg .usr 1)) .byte .read Mode.usr.priv = false ∧
        ∃ b, usr.byteAt ((x.form usr .usr).addr (usr.readReg .usr 1)) = some b := by
  refine ⟨ready (by decide), ?_⟩
  simp only [sdts, List.forall_mem_cons, List.not_mem_nil, false_implies, implies_true, and_true]
  exact ⟨⟨legal (by decide), by decide, 0x55, by decide⟩, ⟨legal (by decide), by decide, 0x11, by decide⟩,
    ⟨legal (by decide), by decide, 0x33, by decide⟩, ⟨legal (by decide), by decide, 0x11, by decide⟩⟩

theorem test_witness_user_view_loads :
    Ready usr .usr .al ∧ (∀ x ∈ sdtTs, (x.form usr .usr).Legal 1 0) ∧
      WordGoes usr (usr.readReg .usr 1) ∧
      CanRead usr .user (wordBase (usr.readReg .usr 1)) .word 0x44332211 ∧
      usr.denied (usr.readReg .usr 1) .byte .read .user = false ∧
      usr.byteAt (usr.readReg .usr 1) = some 0x11 := by
  refine ⟨ready (by decide), ?_, .inl (by decide), canRead (by decide), by decide, by decide⟩
  simp only [sdtTs, List.forall_mem_cons, List.not_mem_nil, false_implies, implies_true, and_true]
  exact ⟨legal (by decide), legal (by decide)⟩

theorem test_witness_halfword_and_signed_loads :
    Ready usr .usr .al ∧
      ∀ x ∈ hsdts, (x.form usr .usr).Legal 1 0 ∧
        ((x.form usr .usr).addr (usr.readReg .usr 1)).toNat % 2 = 0 ∧
        usr.denied ((x.form usr .usr).addr (usr.readReg .usr 1)) .half .read Mode.usr.priv = false ∧
        (∃ h, usr.halfAt ((x.form usr .usr).addr (usr.readReg .usr 1)) = some h) ∧
        usr.denied ((x.form usr .usr).addr (usr.readReg .usr 1)) .byte .read Mode.usr.priv = false ∧
        ∃ b, usr.byteAt ((x.form usr .usr).addr (usr.readReg .usr 1)) = some b := by
  refine ⟨ready (by decide), ?_⟩
  simp only [hsdts, List.forall_mem_cons, List.not_mem_nil, false_implies, implies_true, and_true]
  exact ⟨⟨legal (by decide), by decide, by decide, ⟨0x6655, by decide⟩, by decide, 0x55, by decide⟩,
    ⟨legal (by decide), by decide, by decide, ⟨0x2211, by decide⟩, by decide, 0x11, by decide⟩,
    ⟨legal (by decide), by decide, by decide, ⟨0x6655, by decide⟩, by decide, 0x55, by decide⟩,
    ⟨legal (by decide), by decide, by decide, ⟨0x2211, by decide⟩, by decide, 0x11, by decide⟩⟩

/-- STR of r0 and of r15. -/
theorem test_witness_str :
    Ready usr .usr .al ∧
      (∀ x ∈ sdts, (x.form usr .usr).Legal 1 0 ∧
        WordGoes usr ((x.form usr .usr).addr (usr.readReg .usr 1)) ∧
        usr.denied (wordBase ((x.form usr .usr).addr (usr.readReg .usr 1))) .word .write
          Mode.usr.priv = false) ∧
      ((Sdt.immPre true true 4).form usr .usr).Legal 1 15 := by
  refine ⟨ready (by decide), ?_, legal (by decide)⟩
  simp only [sdts, List.forall_mem_cons, List.not_mem_nil, false_implies, implies_true, and_true]
  exact ⟨⟨legal (by decide), .inl (by decide), by decide⟩, ⟨legal (by decide), .inl (by decide), by decide⟩,
    ⟨legal (by decide), .inr (by decide), by decide⟩, ⟨legal (by decide), .inl (by decide), by decide⟩⟩

theorem test_witness_byte_and_halfword_stores :
    Ready usr .usr .al ∧
      (∀ x ∈ sdts, (x.form usr .usr).Legal 1 0 ∧
        usr.denied ((x.form usr .usr).addr (usr.readReg .usr 1)) .byte .write Mode.usr.priv = false) ∧
      ∀ x ∈ hsdts, (x.form usr .usr).Legal 1 0 ∧
        ((x.form usr .usr).addr (usr.readReg .usr 1)).toNat % 2 = 0 ∧
        usr.denied ((x.form usr .usr).addr (usr.readReg .usr 1)) .half .write Mode.usr.priv = false := by
  refine ⟨ready (by decide), ?_, ?_⟩
  · simp only [sdts, List.forall_mem_cons, List.not_mem_nil, false_implies, implies_true, and_true]
    exact ⟨⟨legal (by decide), by decide⟩, ⟨legal (by decide), by decide⟩,
      ⟨legal (by decide), by decide⟩, ⟨legal (by decide), by decide⟩⟩
  · simp only [hsdts, List.forall_mem_cons, List.not_mem_nil, false_implies, implies_true, and_true]
    exact ⟨⟨legal (by decide), by decide⟩, ⟨legal (by decide), by decide⟩,
      ⟨legal (by decide), by decide⟩, ⟨legal (by decide), by decide⟩⟩

theorem test_witness_user_view_stores :
    Ready usr .usr .al ∧ (∀ x ∈ sdtTs, (x.form usr .usr).Legal 1 0) ∧
      WordGoes usr (usr.readReg .usr 1) ∧
      usr.denied (wordBase (usr.readReg .usr 1)) .word .write .user = false ∧
      usr.denied (usr.readReg .usr 1) .byte .write .user = false := by
  refine ⟨ready (by decide), ?_, .inl (by decide), by decide, by decide⟩
  simp only [sdtTs, List.forall_mem_cons, List.not_mem_nil, false_implies, implies_true, and_true]
  exact ⟨legal (by decide), legal (by decide)⟩

/-- A = 1, and an address one past an aligned one in each clause. -/
theorem test_witness_alignment_faults :
    let s := { cpu 0x10 [(.r1, 0x1001)] [] with cp15c1 := 2 }
    Runs s .usr .al ∧ s.alignFlag = true ∧ ((Sdt.immPre true false 0).form s .usr).Legal 1 0 ∧
      (((Sdt.immPre true false 0).form s .usr).addr (s.readReg .usr 1)).toNat % 4 ≠ 0 ∧
      ((SdtT.imm true 0).form s .usr).Legal 1 0 ∧ (s.readReg .usr 1).toNat % 4 ≠ 0 ∧
      ((Hsdt.immPre true false 0).form s .usr).Legal 1 0 ∧
      (((Hsdt.immPre true false 0).form s .usr).addr (s.readReg .usr 1)).toNat % 2 ≠ 0 ∧
      (Block.ldm true).Admits s .usr 1 ∧ BaseOk true true 1 1 ∧ BaseOk false true 1 6 := by
  refine ⟨runs (by decide), by decide, legal (by decide), by decide, legal (by decide), by decide,
    legal (by decide), by decide, trivial, ?_, ?_⟩ <;> unfold BaseOk <;> decide

/-- An oracle that denies everything. -/
theorem test_witness_denied_single_transfers :
    let d := fun w k => (⟨0, 0xFFFFFFFF, w, k, .user⟩ : Denial)
    let s := { usr with denials := [d .word .read, d .word .write, d .half .read, d .half .write,
      d .byte .read, d .byte .write] }
    Runs s .usr .al ∧ ((Sdt.immPre true false 0).form s .usr).Legal 1 0 ∧
      ((SdtT.imm true 0).form s .usr).Legal 1 0 ∧ ((Hsdt.immPre true false 0).form s .usr).Legal 1 0 ∧
      WordGoes s 0x1000 ∧ s.denied (wordBase 0x1000) .word .read .user = true ∧
      s.denied (wordBase 0x1000) .word .write .user = true ∧
      s.denied 0x1000 .half .read .user = true ∧ s.denied 0x1000 .half .write .user = true ∧
      s.denied 0x1000 .byte .read .user = true ∧ s.denied 0x1000 .byte .write .user = true ∧
      0x1000 = ((Sdt.immPre true false 0).form s .usr).addr (s.readReg .usr 1) ∧
      0x1000 = ((Hsdt.immPre true false 0).form s .usr).addr (s.readReg .usr 1) :=
  ⟨runs (by decide), legal (by decide), legal (by decide), legal (by decide), .inl (by decide),
    by decide, by decide, by decide, by decide, by decide, by decide, by decide, by decide⟩

theorem test_witness_unaligned_halfwords :
    Runs usr .usr .al ∧ (0 : RegNum) ≠ 15 ∧ ((Hsdt.immPre true false 1).form usr .usr).Legal 1 0 ∧
      usr.alignFlag = false ∧ usr.params.unalignedHw = false ∧
      (((Hsdt.immPre true false 1).form usr .usr).addr (usr.readReg .usr 1)).toNat % 2 ≠ 0 :=
  ⟨runs (by decide), by decide, legal (by decide), by decide, by decide, by decide⟩

theorem test_witness_unaligned_hw :
    let s := { cpu 0x10 [(.r1, 0x1001)] [] with params := ⟨true, true, .little, .plus8⟩ }
    Runs s .usr .al ∧ s.alignFlag = false ∧ s.params.unalignedHw = true ∧
      ((Sdt.immPre true false 0).form s .usr).Legal 1 0 ∧
      (((Sdt.immPre true false 0).form s .usr).addr (s.readReg .usr 1)).toNat % 4 ≠ 0 ∧
      ((SdtT.imm true 0).form s .usr).Legal 1 0 ∧ (s.readReg .usr 1).toNat % 4 ≠ 0 ∧
      ((Hsdt.immPre true false 0).form s .usr).Legal 1 0 ∧
      (((Hsdt.immPre true false 0).form s .usr).addr (s.readReg .usr 1)).toNat % 2 ≠ 0 :=
  ⟨runs (by decide), by decide, by decide, legal (by decide), by decide, legal (by decide),
    by decide, legal (by decide), by decide⟩

/-- Rm = r15, Rn = r15, Rd = Rn and Rm = Rn with write-back. -/
theorem test_witness_operands_refused :
    Runs usr .usr .al ∧ ¬ ((Sdt.regPre true false 0 .lsl 15).form usr .usr).Legal 1 0 ∧
      ¬ ((Sdt.immPre true true 0).form usr .usr).Legal 15 0 ∧
      ¬ ((SdtT.imm true 0).form usr .usr).Legal 1 1 ∧
      ¬ ((Hsdt.regPost true 1).form usr .usr).Legal 1 0 := by
  refine ⟨runs (by decide), fun h => h.index rfl, fun h => ?_, fun h => ?_, fun h => ?_⟩
  · exact (h.base rfl).1 rfl
  · exact (h.base rfl).2.1 rfl
  · exact (h.base rfl).2.2 rfl

theorem test_witness_single_load_frame :
    usr.mode? = some .usr ∧
      (∃ t, exec (ldr .al 1 0 (.immPre true true 4)) usr = .next t ∧ true = true) ∧
      (∃ t, exec (ldrbt .al 1 0 (.imm true 4)) usr = .next t ∧ true = true) ∧
      ∃ t, exec (ldrsh .al 1 0 (.immPost true 4)) usr = .next t ∧ true = true :=
  ⟨by decide, next_of_after (f := fun _ => true) (by decide),
    next_of_after (f := fun _ => true) (by decide), next_of_after (f := fun _ => true) (by decide)⟩

theorem test_witness_single_store_frame :
    usr.mode? = some .usr ∧
      (∃ t, exec (str .al 1 0 (.immPre true true 4)) usr = .next t ∧ true = true) ∧
      (∃ t, exec (strb .al 1 0 (.immPre true true 4)) usr = .next t ∧ true = true) ∧
      (∃ t, exec (strt .al 1 0 (.imm true 4)) usr = .next t ∧ true = true) ∧
      (∃ t, exec (strbt .al 1 0 (.imm true 4)) usr = .next t ∧ true = true) ∧
      ∃ t, exec (strh .al 1 0 (.immPost true 4)) usr = .next t ∧ true = true :=
  ⟨by decide, next_of_after (f := fun _ => true) (by decide),
    next_of_after (f := fun _ => true) (by decide), next_of_after (f := fun _ => true) (by decide),
    next_of_after (f := fun _ => true) (by decide), next_of_after (f := fun _ => true) (by decide)⟩

/-! Multiple transfers: base r0 = 0x1000, the words at 0x1000, 0x1004 and 0x1008. -/

/-- The words of Supervisor mode's list {r1, r2}, {r2, r15} or {r1, r2, r15}. -/
def inOrder (a b c : Word) (i : RegNum) : Word := if i = 1 then a else if i = 2 then b else c

theorem test_witness_ldm :
    Ready svc .svc .al ∧ BlockReady svc .svc .ia 0 6 ∧ BaseOk true true 0 6 ∧ listed 6 15 = false ∧
      ∀ i, listed 6 i = true → CanRead svc Mode.svc.priv (wordOf .ia (svc.readReg .svc 0) 6 i) .word
        (inOrder 0x11 0x22 0 i) := by
  refine ⟨ready (by decide), blockReady (by decide) ?_, ?_, by decide, canReadAll (by decide)⟩
  · unfold Fits; decide
  · unfold BaseOk; decide

/-- A block that ends with the last word of the address space. -/
theorem test_witness_ldm_at_the_top :
    let s := cpu 0x10 [(.r0, 0xFFFFFFF8)] [(0xFFFFFFF8, 1), (0xFFFFFFFC, 2)]
    BlockReady s .usr .ia 0 6 ∧
      ∀ i, listed 6 i = true → CanRead s Mode.usr.priv (wordOf .ia (s.readReg .usr 0) 6 i) .word
        (inOrder 1 2 0 i) := by
  refine ⟨blockReady (by decide) ?_, canReadAll (by decide)⟩
  unfold Fits; decide

/-- The pc from 0x1008 for a jump, and from 0x1000 for a value whose bits 1:0 are not zero. -/
theorem test_witness_ldm_pc :
    Runs svc .svc .al ∧ BlockReady svc .svc .ia 0 0x8006 ∧ BaseOk true true 0 0x8006 ∧
      listed 0x8006 15 = true ∧
      (∀ i, listed 0x8006 i = true → CanRead svc Mode.svc.priv
        (wordOf .ia (svc.readReg .svc 0) 0x8006 i) .word (inOrder 0x11 0x22 0x9000 i)) ∧
      (inOrder 0x11 0x22 0x9000 15).toNat % 4 = 0 ∧ BlockReady svc .svc .ia 0 0x8000 ∧
      (∀ i, listed 0x8000 i = true → CanRead svc Mode.svc.priv
        (wordOf .ia (svc.readReg .svc 0) 0x8000 i) .word (inOrder 0 0 0x11 i)) ∧
      (inOrder 0 0 0x11 15).toNat % 4 ≠ 0 := by
  refine ⟨runs (by decide), blockReady (by decide) ?_, ?_, by decide, canReadAll (by decide),
    by decide, blockReady (by decide) ?_, canReadAll (by decide), by decide⟩
  · unfold Fits; decide
  · unfold BaseOk; decide
  · unfold Fits; decide

/-- The base as the lowest register of the list, and r15 in it. -/
theorem test_witness_stm :
    Ready svc .svc .al ∧ BlockReady svc .svc .db 0 0x8003 ∧ BaseOk false true 0 0x8003 ∧
      ∀ i, listed 0x8003 i = true →
        svc.denied (wordOf .db (svc.readReg .svc 0) 0x8003 i) .word .write Mode.svc.priv = false := by
  refine ⟨ready (by decide), blockReady (by decide) ?_, ?_, by decide⟩
  · unfold Fits; decide
  · unfold BaseOk; decide

theorem test_witness_ldm_return :
    Runs svc .svc .al ∧ BlockReady svc .svc .ia 0 0x8006 ∧ BaseOk true true 0 0x8006 ∧
      listed 0x8006 15 = true ∧
      (∀ i, listed 0x8006 i = true → CanRead svc Mode.svc.priv
        (wordOf .ia (svc.readReg .svc 0) 0x8006 i) .word (inOrder 0x11 0x22 0x9000 i)) ∧
      svc.spsr? .svc = some 0x80000010 ∧ psrT 0x80000010 = false ∧ psrMode? 0x80000010 ≠ none ∧
      (inOrder 0x11 0x22 0x9000 15).toNat % 4 = 0 := by
  refine ⟨runs (by decide), blockReady (by decide) ?_, ?_, by decide, canReadAll (by decide),
    by decide, by decide, by decide, by decide⟩
  · unfold Fits; decide
  · unfold BaseOk; decide

/-- User and System mode; an SPSR with T = 1, one with no mode, and a loaded pc 0x11. -/
theorem test_witness_caret_refusals :
    Runs usr .usr .al ∧ Runs (cpu 0xDF [] []) .sys .al ∧ listed 6 15 = false ∧
      psrT 0x30 = true ∧ psrT 5 = false ∧ psrMode? 5 = none ∧ psrT 0x10 = false ∧
      psrMode? 0x10 ≠ none ∧
      ∀ p ∈ [(0x30 : Word), 5, 0x10],
        Runs { svc with spsrSvc := p } .svc .al ∧
        BlockReady { svc with spsrSvc := p } .svc .ia 0 0x8000 ∧ BaseOk true true 0 0x8000 ∧
        (∀ i, listed 0x8000 i = true → CanRead { svc with spsrSvc := p } Mode.svc.priv
          (wordOf .ia ({ svc with spsrSvc := p }.readReg .svc 0) 0x8000 i) .word
          (inOrder 0 0 0x11 i)) ∧
        { svc with spsrSvc := p }.spsr? .svc = some p ∧ (inOrder 0 0 0x11 15).toNat % 4 ≠ 0 := by
  refine ⟨runs (by decide), runs (by decide), by decide, by decide, by decide, by decide, by decide,
    by decide, ?_⟩
  intro p _
  refine ⟨⟨?_, ?_⟩, blockReady ⟨by decide, by decide, ?_⟩ ?_, ?_, fun i hi => ?_, rfl, by decide⟩
  · show svc.mode? = some .svc; decide
  · show svc.condPassed .al = true; decide
  · show (svc.readReg .svc 0).toNat % 4 = 0; decide
  · show Fits .ia (svc.readReg .svc 0) 0x8000; unfold Fits; decide
  · unfold BaseOk; decide
  · have key : ∀ i, listed 0x8000 i = true →
        svc.denied (wordOf .ia (svc.readReg .svc 0) 0x8000 i) .word .read Mode.svc.priv = false ∧
        svc.valueAt (wordOf .ia (svc.readReg .svc 0) 0x8000 i) .word = some (inOrder 0 0 0x11 i) := by
      decide
    exact ⟨(key i hi).1, (key i hi).2⟩

theorem test_witness_user_bank_forms :
    Ready svc .svc .al ∧ svc.spsr? .svc ≠ none ∧ BlockReady svc .svc .ia 0 0x6000 ∧
      listed 0x6000 15 = false ∧
      (∀ i, listed 0x6000 i = true → CanRead svc Mode.svc.priv
        (wordOf .ia (svc.readReg .svc 0) 0x6000 i) .word (if i = 13 then 0x11 else 0x22)) ∧
      ∀ i, listed 0x6000 i = true →
        svc.denied (wordOf .ia (svc.readReg .svc 0) 0x6000 i) .word .write Mode.svc.priv = false := by
  refine ⟨ready (by decide), by decide, blockReady (by decide) ?_, by decide, canReadAll (by decide),
    by decide⟩
  unfold Fits; decide

/-- An empty list; the base r15; the base in the list of an LDM, and in that of an STM above another
register; an unaligned base; a range past the last word, and one below the first. -/
theorem test_witness_block_refusals :
    let s := cpu 0x10 [(.r0, 0xFFFFFFFC), (.r1, 0x1001)] []
    Runs s .usr .al ∧ (Block.ldm true).Admits s .usr 0 ∧ (Block.stm true).Admits s .usr 3 ∧
      ¬ BaseOk true true 0 1 ∧ ¬ BaseOk false true 1 3 ∧ BaseOk true true 0 6 ∧ BaseOk true true 1 4 ∧
      (s.readReg .usr 1).toNat % 4 ≠ 0 ∧ s.alignFlag = false ∧ (s.readReg .usr 0).toNat % 4 = 0 ∧
      ¬ Fits .ia (s.readReg .usr 0) 6 ∧ (s.readReg .usr 2).toNat % 4 = 0 ∧
      ¬ Fits .db (s.readReg .usr 2) 1 ∧ BaseOk true true 2 1 := by
  refine ⟨runs (by decide), trivial, trivial, ?_, ?_, ?_, ?_, by decide, by decide, by decide, ?_,
    by decide, ?_, ?_⟩
  · unfold BaseOk; decide
  · unfold BaseOk; decide
  · unfold BaseOk; decide
  · unfold BaseOk; decide
  · unfold Fits; decide
  · unfold Fits; decide
  · unfold BaseOk; decide

/-- The first access is good, the second is denied: with r2 (or User r14) as register `j`. -/
theorem test_witness_denied_ldm :
    let s := { svc with denials := [⟨0x1004, 0x1004, .word, .read, .privileged⟩] }
    Runs s .svc .al ∧ (Block.ldm true).Admits s .svc 6 ∧ (Block.ldmUsr).Admits s .svc 0x6000 ∧
      (Block.ldmRet false).Admits s .svc 0x8002 ∧ BlockReady s .svc .ia 0 6 ∧
      BlockReady s .svc .ia 0 0x6000 ∧ BlockReady s .svc .ia 0 0x8002 ∧ BaseOk true true 0 6 ∧
      listed 6 2 = true ∧ listed 0x6000 14 = true ∧ listed 0x8002 15 = true ∧
      s.denied (wordOf .ia (s.readReg .svc 0) 6 2) .word .read Mode.svc.priv = true ∧
      s.denied (wordOf .ia (s.readReg .svc 0) 0x6000 14) .word .read Mode.svc.priv = true ∧
      s.denied (wordOf .ia (s.readReg .svc 0) 0x8002 15) .word .read Mode.svc.priv = true ∧
      (∀ i : RegNum, listed 6 i = true → i.toNat < (2 : RegNum).toNat →
        ∃ v, CanRead s Mode.svc.priv (wordOf .ia (s.readReg .svc 0) 6 i) .word v) ∧
      (∀ i : RegNum, listed 0x6000 i = true → i.toNat < (14 : RegNum).toNat →
        ∃ v, CanRead s Mode.svc.priv (wordOf .ia (s.readReg .svc 0) 0x6000 i) .word v) ∧
      ∀ i : RegNum, listed 0x8002 i = true → i.toNat < (15 : RegNum).toNat →
        ∃ v, CanRead s Mode.svc.priv (wordOf .ia (s.readReg .svc 0) 0x8002 i) .word v := by
  refine ⟨runs (by decide), trivial, ⟨by decide, by decide⟩, ⟨by decide, by decide⟩,
    blockReady (by decide) ?_, blockReady (by decide) ?_, blockReady (by decide) ?_, ?_, by decide,
    by decide, by decide, by decide, by decide, by decide, fun i hi hj => ⟨0x11, canRead ?_⟩,
    fun i hi hj => ⟨0x11, canRead ?_⟩, fun i hi hj => ⟨0x11, canRead ?_⟩⟩
  · unfold Fits; decide
  · unfold Fits; decide
  · unfold Fits; decide
  · unfold BaseOk; decide
  · revert i; decide
  · revert i; decide
  · revert i; decide

theorem test_witness_denied_stm :
    let s := { svc with denials := [⟨0x1004, 0x1004, .word, .write, .privileged⟩] }
    Runs s .svc .al ∧ (Block.stm true).Admits s .svc 6 ∧ (Block.stmUsr).Admits s .svc 0x6000 ∧
      BlockReady s .svc .ia 0 6 ∧ BlockReady s .svc .ia 0 0x6000 ∧ BaseOk false true 0 6 ∧
      listed 6 2 = true ∧ listed 0x6000 14 = true ∧
      s.denied (wordOf .ia (s.readReg .svc 0) 6 2) .word .write Mode.svc.priv = true ∧
      s.denied (wordOf .ia (s.readReg .svc 0) 0x6000 14) .word .write Mode.svc.priv = true ∧
      (∀ i : RegNum, listed 6 i = true → i.toNat < (2 : RegNum).toNat →
        s.denied (wordOf .ia (s.readReg .svc 0) 6 i) .word .write Mode.svc.priv = false) ∧
      ∀ i : RegNum, listed 0x6000 i = true → i.toNat < (14 : RegNum).toNat →
        s.denied (wordOf .ia (s.readReg .svc 0) 0x6000 i) .word .write Mode.svc.priv = false := by
  refine ⟨runs (by decide), trivial, ⟨by decide, by decide⟩, blockReady (by decide) ?_,
    blockReady (by decide) ?_, ?_, by decide, by decide, by decide, by decide, by decide, by decide⟩
  · unfold Fits; decide
  · unfold Fits; decide
  · unfold BaseOk; decide

theorem test_witness_block_frame :
    svc.mode? = some .svc ∧
      (∃ t, exec ((Block.ldmRet true).instr .ia .al 0 0x8006) svc = .next t ∧ true = true) ∧
      (∃ t, exec (Block.ldmUsr.instr .ia .al 0 0x6000) svc = .next t ∧ true = true) ∧
      (∃ t, exec ((Block.ldm true).instr .ia .al 0 6) svc = .next t ∧ true = true) ∧
      (∃ t, exec ((Block.stm true).instr .db .al 0 6) svc = .next t ∧ true = true) ∧
      ∃ t, exec (Block.stmUsr.instr .db .al 0 6) svc = .next t ∧ true = true :=
  ⟨by decide, next_of_after (f := fun _ => true) (by decide),
    next_of_after (f := fun _ => true) (by decide), next_of_after (f := fun _ => true) (by decide),
    next_of_after (f := fun _ => true) (by decide), next_of_after (f := fun _ => true) (by decide)⟩

/-- All four kinds of stack. -/
theorem test_witness_push :
    let s := cpu 0x10 [(.r13, 0x2000), (.r1, 0x11), (.r14, 0x22)] []
    Runs s .usr .al ∧ s.denials = [] ∧ (s.readReg .usr 13).toNat % 4 = 0 ∧ listed 0x4002 13 = false ∧
      listed 0x4002 15 = false ∧
      ((s.readReg .usr 13).toNat + 4 * count 0x4002 < 4294967296) ∧
      4 * count 0x4002 ≤ (s.readReg .usr 13).toNat ∧
      (∃ t, exec (stm .db .al true 13 0x4002) s = .next t ∧ decide (t.pc ≠ 0xFFFFFFFC) = true) ∧
      (∃ t, exec (stm .da .al true 13 0x4002) s = .next t ∧ decide (t.pc ≠ 0xFFFFFFFC) = true) ∧
      (∃ t, exec (stm .ib .al true 13 0x4002) s = .next t ∧ decide (t.pc ≠ 0xFFFFFFFC) = true) ∧
      ∃ t, exec (stm .ia .al true 13 0x4002) s = .next t ∧ decide (t.pc ≠ 0xFFFFFFFC) = true :=
  ⟨runs (by decide), by decide, by decide, by decide, by decide, by decide, by decide,
    next_of_after (by decide), next_of_after (by decide), next_of_after (by decide),
    next_of_after (by decide)⟩

/-! SWI, SWP, CLZ and CP15. -/

theorem test_witness_swi : Runs usr .usr .al ∧ Runs svc .svc .al := ⟨runs (by decide), runs (by decide)⟩

theorem test_witness_swap :
    Ready usr .usr .al ∧ (usr.readReg .usr 1).toNat % 4 = 0 ∧
      CanRead usr Mode.usr.priv (usr.readReg .usr 1) .word 0x44332211 ∧
      usr.denied (usr.readReg .usr 1) .word .write Mode.usr.priv = false ∧
      usr.denied (usr.readReg .usr 1) .byte .read Mode.usr.priv = false ∧
      usr.byteAt (usr.readReg .usr 1) = some 0x11 ∧
      usr.denied (usr.readReg .usr 1) .byte .write Mode.usr.priv = false :=
  ⟨ready (by decide), by decide, canRead (by decide), by decide, by decide, by decide, by decide⟩

theorem test_witness_swap_refusals_and_aborts :
    let d := fun w k => (⟨0x1000, 0x1000, w, k, .user⟩ : Denial)
    let s := { usr with denials := [d .word .read, d .byte .read] }
    let t := { usr with denials := [d .word .write, d .byte .write] }
    let u := cpu 0x10 [(.r1, 0x1002)] []
    Runs s .usr .al ∧ Runs t .usr .al ∧ Runs u .usr .al ∧ (u.readReg .usr 1).toNat % 4 ≠ 0 ∧
      u.alignFlag = false ∧ (s.readReg .usr 1).toNat % 4 = 0 ∧
      s.denied (s.readReg .usr 1) .word .read Mode.usr.priv = true ∧
      s.denied (s.readReg .usr 1) .byte .read Mode.usr.priv = true ∧
      CanRead t Mode.usr.priv (t.readReg .usr 1) .word 0x44332211 ∧
      CanRead t Mode.usr.priv (t.readReg .usr 1) .byte 0x11 ∧
      t.denied (t.readReg .usr 1) .word .write Mode.usr.priv = true ∧
      t.denied (t.readReg .usr 1) .byte .write Mode.usr.priv = true :=
  ⟨runs (by decide), runs (by decide), runs (by decide), by decide, by decide, by decide, by decide,
    by decide, canRead (by decide), canRead (by decide), by decide, by decide⟩

theorem test_witness_clz :
    { usr with params := ⟨false, false, .little, .plus8⟩ }.params.hasClz = false ∧
      usr.params.hasClz = true ∧ Ready usr .usr .al ∧ usr.readReg .usr 3 = 0 ∧ usr.readReg .usr 1 ≠ 0 :=
  ⟨by decide, by decide, ready (by decide), by decide, by decide⟩

/-- r1 differs from CP15 register 1 in bit 1 alone, r0 in others. -/
theorem test_witness_cp15 :
    Ready svc .svc .al ∧ Mode.svc ≠ .usr ∧ (1 : RegNum) ≠ 15 ∧
      (∀ k, k ≠ 1 → (svc.readReg .svc 1).getLsbD k = svc.cp15c1.getLsbD k) ∧
      ∃ k, k ≠ 1 ∧ (svc.readReg .svc 0).getLsbD k ≠ svc.cp15c1.getLsbD k := by
  refine ⟨ready (by decide), by decide, by decide, fun k hk => ?_, 3, by decide, by decide⟩
  by_cases h : k < 32
  · have key : ∀ k < 32, k ≠ 1 → (svc.readReg .svc 1).getLsbD k = svc.cp15c1.getLsbD k := by decide
    exact key k h hk
  · rw [BitVec.getLsbD_of_ge _ _ (by omega), BitVec.getLsbD_of_ge _ _ (by omega)]

theorem test_witness_cp15_undefined_and_refused :
    Runs usr .usr .al ∧ Runs svc .svc .al ∧
      ¬ ((1 : BitVec 4) = 1 ∧ (1 : BitVec 3) = 0 ∧ (0 : BitVec 4) = 0) :=
  ⟨runs (by decide), runs (by decide), by decide⟩

theorem test_witness_other_frames :
    usr.mode? = some .usr ∧ (∃ t, exec (.swp .al 1 0 2) usr = .next t ∧ true = true) ∧
      (∃ t, exec (.swpb .al 1 0 2) usr = .next t ∧ true = true) ∧
      (∃ t, exec (.clz .al 0 2) usr = .next t ∧ true = true) ∧ svc.mode? = some .svc ∧
      (∃ t, exec (.mrc .al 1 2 0 0) svc = .next t ∧ true = true) ∧
      ∃ t, exec (.mcr .al 1 1 0 0) svc = .next t ∧ decide (t.alignFlag = true) = true :=
  ⟨by decide, next_of_after (f := fun _ => true) (by decide),
    next_of_after (f := fun _ => true) (by decide), next_of_after (f := fun _ => true) (by decide),
    by decide, next_of_after (f := fun _ => true) (by decide), next_of_after (by decide)⟩

end Sys2Proof.Tests
end

section
/-! ## A step runs the decoded instruction (spec 00_scope.md R9, 20_memory.md R73) -/

namespace Sys2Proof.Machine

open Sys2Proof.Claims

/-- The bytes of a word, put together in the order of their addresses, are the word (20_memory.md R52). -/
@[simp] theorem wordOfBytes_fieldOf (w : Word) :
    wordOfBytes (fieldOf w 0 8) (fieldOf w 8 8) (fieldOf w 16 8) (fieldOf w 24 8) = w :=
  bytes_of_word w

/-- Decoding the bytes of a word reads the word and leaves the bytes after it. -/
theorem decode_bytesOfWord_append (w : Word) (rest : List Byte) :
    decode (bytesOfWord w ++ rest) = (decodeWord w).map fun i => (i, rest) := by
  simp only [bytesOfWord, List.cons_append, List.nil_append, decode, wordOfBytes_fieldOf]
  cases decodeWord w <;> rfl

/-- The bytes of a word decode to an instruction exactly when the word does. -/
theorem decode_bytesOfWord_eq_ok {w : Word} {i : Instr} :
    decode (bytesOfWord w) = .ok (i, []) ↔ decodeWord w = .ok i := by
  rw [← List.append_nil (bytesOfWord w), decode_bytesOfWord_append]
  cases decodeWord w <;> simp [Except.map]

/-- The hazard is hit exactly when it stands and the instruction names a register banked in the
mode (70_reset_and_hazards.md R266). -/
theorem hazardHit_iff {s : State} {m : Mode} (hm : s.mode? = some m) (i : Instr) :
    s.hazardHit i = true ↔
      s.bankHazard = true ∧ ∃ r ∈ operandRegs i, physReg m r ≠ physReg .usr r := by
  simp only [State.hazardHit, hm, Bool.and_eq_true, List.any_eq_true, bankedIn, decide_eq_true_eq]

/-- No hazard is hit when, as long as it stands, every operand is one register in the mode and in
the User bank. -/
theorem hazardHit_eq_false {s : State} {m : Mode} {i : Instr} (hm : s.mode? = some m)
    (h : s.bankHazard = true → ∀ r ∈ operandRegs i, physReg m r = physReg .usr r) :
    s.hazardHit i = false := by
  rw [Bool.eq_false_iff, ne_eq, hazardHit_iff hm]
  rintro ⟨hb, r, hr, hne⟩
  exact hne (h hb r hr)

/-- The meaning of CLZ. -/
theorem exec_clz (c : Cond) (d m : RegNum) (s : State) :
    exec (.clz c d m) s = execClz c d m s := rfl

/-- An instruction that the configuration takes out is refused by its own meaning too: it is a CLZ
with HAS_CLZ = no (45_clz.md R210). -/
theorem exec_of_not_admits {s : State} {i : Instr} (h : s.admits i = false) :
    exec i s = .refused .notAdmitted := by
  by_cases hi : ∀ c d m, i ≠ .clz c d m
  · rw [admits_of_not_clz hi] at h
    exact absurd h (by decide)
  · push Not at hi
    obtain ⟨c, d, m, rfl⟩ := hi
    have hclz : s.params.hasClz = false := h
    simp [exec_clz, execClz, hclz]

/-- The step at a word that is fetched and decodes, when it meets no hazard, executes the
instruction: the test for being admitted gives what the instruction's own meaning gives. -/
theorem step_of_decodes {s : State} {m : Mode} {w : Word} {i : Instr} (hf : Fetches s m w)
    (hd : decodeWord w = .ok i) (hz : s.nextLines.hazardHit i = false) :
    step s = exec i (s.nextLines.setHazard false) := by
  rw [step_of_fetches hf, hd]
  cases ha : s.nextLines.admits i
  case true => simp [ha, hz]
  case false =>
    have ha' : (s.nextLines.setHazard false).admits i = false := ha
    simp [ha, exec_of_not_admits ha']

/-- Settles O6: the fetched word decodes as its bytes do, and no operand is banked while the hazard
stands. -/
theorem stepRunsTheDecodedInstruction : Obligations.StepRunsTheDecodedInstruction := by
  intro s m w i hf hd hz
  have hm : s.nextLines.mode? = some m := hf.here.mode
  exact step_of_decodes hf (decode_bytesOfWord_eq_ok.mp hd) (hazardHit_eq_false hm hz)

end Sys2Proof.Machine
end

section
/-! ## The state after reset (spec 10_state.md R40, 70_reset_and_hazards.md R260) -/

namespace Sys2Proof.Machine

/-- Settles O12: the reset values are written out in the state but for A, which the mask clears in the
unknown constant C1_OTHER. -/
theorem stateAfterReset : Obligations.StateAfterReset := by
  refine ⟨rfl, by decide, by decide, by decide, by decide, ?_⟩
  simp [State.alignFlag, State.reset]

/-- Settles O13: nothing is in memory and nothing written; the pc, the mode and T are those of
`stateAfterReset`. -/
theorem resetSatisfiesInv : Obligations.ResetSatisfiesInv := by
  obtain ⟨hpc, hmode, -, -, hthumb, -⟩ := stateAfterReset
  exact
    { mem := rfl, written := rfl, valued := fun a ha => absurd ha List.not_mem_nil
      aligned := by rw [hpc]; decide
      mode := by rw [hmode]; rfl
      thumb := hthumb }

end Sys2Proof.Machine
end

section
/-! ## The banks of the general registers (spec 10_state.md R21 to R23) -/

namespace Sys2Proof.Machine

/-- The number under which every mode that reaches a physical register knows it (R21). -/
def PhysReg.num : PhysReg → RegNum
  | .r0 => 0
  | .r1 => 1
  | .r2 => 2
  | .r3 => 3
  | .r4 => 4
  | .r5 => 5
  | .r6 => 6
  | .r7 => 7
  | .r8 | .r8_fiq => 8
  | .r9 | .r9_fiq => 9
  | .r10 | .r10_fiq => 10
  | .r11 | .r11_fiq => 11
  | .r12 | .r12_fiq => 12
  | .r13 | .r13_fiq | .r13_svc | .r13_abt | .r13_und | .r13_irq => 13
  | .r14 | .r14_fiq | .r14_svc | .r14_abt | .r14_und | .r14_irq => 14

theorem num_of_physReg {m : Mode} {i : RegNum} {p : PhysReg} (h : physReg m i = some p) :
    p.num = i := by
  have named : ∀ i : RegNum, ∀ q ∈ physReg m i, q.num = i := by cases m <;> decide
  exact named i p h

/-- The registers every mode shares with User mode: r0 to r7, r8 to r12 outside FIQ mode, and all of
System mode (R21, R22). -/
theorem physReg_eq_usr_iff (m : Mode) {i : RegNum} (h : i ≠ 15) :
    physReg m i = physReg .usr i ↔
      i.toNat ≤ 7 ∨ (i.toNat ≤ 12 ∧ m ≠ .fiq) ∨ m = .usr ∨ m = .sys := by
  revert i
  cases m <;> decide

/-- Two different modes share a register only when both share it with User mode (R22). -/
theorem eq_or_eq_usr_of_physReg_eq {m k : Mode} {i : RegNum} (h : physReg m i = physReg k i) :
    m = k ∨ physReg m i = physReg .usr i := by
  revert i
  cases m <;> cases k <;> decide

/-- One register reached by two modes has one number, and is banked in neither unless they are one
mode. -/
theorem physReg_eq_cases {m k : Mode} {i j : RegNum} (hi : i ≠ 15)
    (h : physReg m i = physReg k j) : i = j ∧ (m = k ∨ physReg m i = physReg .usr i) := by
  obtain ⟨p, hp⟩ := physReg_isSome (m := m) hi
  have hij : i = j := (num_of_physReg hp).symm.trans (num_of_physReg (h ▸ hp))
  subst hij
  exact ⟨rfl, eq_or_eq_usr_of_physReg_eq h⟩

/-- A read of a register of the bank, in any mode, after a write in any mode (R21). -/
theorem readReg_writeReg (s : State) (m k : Mode) (i : RegNum) {j : RegNum} (v : Word)
    (hj : j ≠ 15) :
    (s.writeReg m i v).readReg k j =
      if physReg m i = physReg k j then v else s.readReg k j := by
  obtain ⟨q, hq⟩ := physReg_isSome (m := k) hj
  rw [readReg_eq hq, readReg_eq hq, getPhys_writeReg, hq]

/-- r15 is no register of the bank: nothing is written (R23). -/
theorem writeReg_fifteen (s : State) (m : Mode) (v : Word) : s.writeReg m 15 v = s := by
  have h : physReg m 15 = none := (physReg_eq_none_iff m 15).mpr rfl
  unfold State.writeReg
  rw [h]

/-- Settles O22, clause by clause from the table of R21. -/
theorem registerBanks : Obligations.RegisterBanks :=
  ⟨fun m _ hi => physReg_eq_usr_iff m hi, fun _ _ _ _ hi h => physReg_eq_cases hi h,
    fun s m k i _ v _ hj => readReg_writeReg s m k i v hj,
    fun s m v => ⟨readReg_fifteen s m, writeReg_fifteen s m v⟩⟩

end Sys2Proof.Machine
end

section
/-! ## What an instruction does to the control part of the state

The status registers, CP15 register 1, the oracle, the parameters and the inputs (spec 10_state.md R25
to R29, 00_scope.md R5). -/

namespace Sys2Proof.Machine

open Sys2Proof.Claims

/-- The part of the state that loads, stores and register writes leave alone. -/
structure Control where
  cpsr : Word
  spsrSvc : Word
  spsrAbt : Word
  spsrUnd : Word
  spsrIrq : Word
  spsrFiq : Word
  cp15c1 : Word
  denials : List Denial
  lines : List Lines
  params : Params

/-- The control part of a state. -/
def State.control (s : State) : Control :=
  { cpsr := s.cpsr, spsrSvc := s.spsrSvc, spsrAbt := s.spsrAbt, spsrUnd := s.spsrUnd,
    spsrIrq := s.spsrIrq, spsrFiq := s.spsrFiq, cp15c1 := s.cp15c1, denials := s.denials,
    lines := s.lines, params := s.params }

theorem cpsr_of_control {s t : State} (h : t.control = s.control) : t.cpsr = s.cpsr :=
  congrArg Control.cpsr h

theorem spsr?_of_control {s t : State} (h : t.control = s.control) (m : Mode) :
    t.spsr? m = s.spsr? m := by
  cases m with
  | usr | sys => rfl
  | svc => exact congrArg some (congrArg Control.spsrSvc h)
  | abt => exact congrArg some (congrArg Control.spsrAbt h)
  | und => exact congrArg some (congrArg Control.spsrUnd h)
  | irq => exact congrArg some (congrArg Control.spsrIrq h)
  | fiq => exact congrArg some (congrArg Control.spsrFiq h)

theorem cp15c1_of_control {s t : State} (h : t.control = s.control) : t.cp15c1 = s.cp15c1 :=
  congrArg Control.cp15c1 h

theorem denials_of_control {s t : State} (h : t.control = s.control) : t.denials = s.denials :=
  congrArg Control.denials h

theorem lines_of_control {s t : State} (h : t.control = s.control) : t.lines = s.lines :=
  congrArg Control.lines h

theorem params_of_control {s t : State} (h : t.control = s.control) : t.params = s.params :=
  congrArg Control.params h

/-! ### The operations that keep it -/

@[simp] theorem State.setPc_control (s : State) (v : Word) :
    (s.setPc v).control = s.control := rfl

@[simp] theorem State.setHazard_control (s : State) (b : Bool) :
    (s.setHazard b).control = s.control := rfl

@[simp] theorem State.setAbort_control (s : State) (i : AbortInfo) :
    (s.setAbort i).control = s.control := rfl

@[simp] theorem State.writeReg_control (s : State) (m : Mode) (i : RegNum) (v : Word) :
    (s.writeReg m i v).control = s.control := by simp [control]

@[simp] theorem State.writeRegs_control (s : State) (m : Mode) (l : List (RegNum × Word)) :
    (s.writeRegs m l).control = s.control := by simp [control]

@[simp] theorem State.writeBack_control (s : State) (m : Mode) (o : MemOperand) (v : Word) :
    (s.writeBack m o v).control = s.control := by simp [control]

@[simp] theorem State.store_control (s : State) (a : Word) (w : Width) (v : Word) :
    (s.store a w v).control = s.control := by simp [control]

@[simp] theorem State.drawRegs_control (s : State) (l : List PhysReg) :
    (s.drawRegs l).control = s.control := by simp [control]

@[simp] theorem State.drawWords_control (s : State) (a : Word) (l : List Word) :
    (s.drawWords a l).control = s.control := by simp [control]

theorem control_writeWords {s t : State} {p : Priv} {a : Word} {l : List Word}
    (h : s.writeWords p a l = .ok t) : t.control = s.control := by
  induction l generalizing s a with
  | nil => cases h; rfl
  | cons v l ih =>
    simp only [State.writeWords, Res.bind_ok, State.memWrite_ok] at h
    obtain ⟨u, ⟨-, rfl⟩, h⟩ := h
    simpa using ih h

theorem control_advance {s t : State} (h : s.advance = .ok t) : t.control = s.control := by
  obtain ⟨-, rfl⟩ := State.advance_ok.mp h
  simp

theorem control_jump {s t : State} {v : Word} (h : s.jump v = .ok t) : t.control = s.control := by
  obtain ⟨-, rfl⟩ := State.jump_ok.mp h
  simp

theorem control_loadSingle {s t : State} {m : Mode} {k : LoadKind} {uv : Bool} {o : MemOperand}
    {d : RegNum} {p : Bool} (h : s.loadSingle m k uv o d p = .ok t) : t.control = s.control := by
  obtain ⟨-, -, v, -, hf⟩ := State.loadSingle_ok.mp h
  rcases State.finishLoad_ok.mp hf with ⟨-, -, rfl⟩ | ⟨-, -, rfl⟩ <;> simp

theorem control_storeSingle {s t : State} {m : Mode} {w : Width} {uv : Bool} {o : MemOperand}
    {d : RegNum} {p : Bool} (h : s.storeSingle m w uv o d p = .ok t) : t.control = s.control := by
  obtain ⟨-, -, -, -, rfl⟩ := State.storeSingle_ok.mp h
  simp

theorem control_swap {s t : State} {m : Mode} {w : Width} {n d r : RegNum}
    (h : s.swap m w n d r = .ok t) : t.control = s.control := by
  obtain ⟨-, -, -, -, v, -, rfl⟩ := State.swap_ok.mp h
  simp

/-! ### The operations that write it -/

/-- Everything an instruction run in mode `m` from `s` can do to the control part: keep it; enter an
exception with it as it was; restore the CPSR from the SPSR of the mode, which only the returns do; or
write CP15 register 1 with the bits other than A as they were. -/
inductive ControlNext (i : Instr) (m : Mode) (s t : State) : Prop where
  | kept (h : t.control = s.control)
  | entered (u : State) (e : Exception) (ret : Word) (hu : u.control = s.control)
      (ht : t = u.enterException e ret)
  | restored (u : State) (p v : Word) (hr : restores i = true) (hp : s.spsr? m = some p)
      (hu : u.control = s.control) (ht : t = (u.setCpsr p).setPc v)
  | wroteControlReg (v : Word) (hv : v &&& 0xFFFFFFFD = s.cp15c1 &&& 0xFFFFFFFD)
      (ht : t = (s.setCp15c1 v).setPc (s.pc + 4))

theorem controlNext_enterDataAbort (i : Instr) (m : Mode) {s u : State} (a : AbortInfo)
    (hu : u.control = s.control) : ControlNext i m s (u.enterDataAbort a) :=
  .entered (u.setAbort a) .dataAbort (u.pc + 8) (by simpa using hu) rfl

/-- An LDM does what its `finish` does to the loaded registers, or aborts. -/
theorem controlNext_loadBlock {i : Instr} {s t : State} {m bank : Mode} {b : BlockMode} {w : Bool}
    {n : RegNum} {l : BitVec 16} {finish : State → Option Word → Res State}
    (hf : ∀ u v, u.control = s.control → finish u v = .ok t → ControlNext i m s t)
    (h : s.loadBlock m bank b w n l finish = .ok t) : ControlNext i m s t := by
  obtain ⟨-, ⟨vs, -, he⟩ | ⟨a, -, rfl⟩⟩ := State.loadBlock_ok.mp h
  · exact hf _ _ (by cases w <;> simp) he
  · exact controlNext_enterDataAbort i m a (by simp)

theorem controlNext_ldm {i : Instr} {s t : State} {m : Mode} {b : BlockMode} {w : Bool} {n : RegNum}
    {l : BitVec 16} (h : s.ldm m b w n l = .ok t) : ControlNext i m s t := by
  refine controlNext_loadBlock (fun u v hu he => .kept ?_) h
  cases v with
  | none => exact (control_advance he).trans hu
  | some v => exact (control_jump he).trans hu

theorem controlNext_ldmUser {i : Instr} {s t : State} {m : Mode} {b : BlockMode} {n : RegNum}
    {l : BitVec 16} (h : s.ldmUser m b n l = .ok t) : ControlNext i m s t := by
  simp only [State.ldmUser, ite_eq_iff, reduceCtorEq, and_false, false_or] at h
  obtain ⟨-, -, h⟩ := h
  refine controlNext_loadBlock (fun u v hu he => .kept ?_) h
  have hadv : t.control = (u.setHazard true).control := control_advance he
  exact hadv.trans hu

theorem controlNext_ldmReturn {i : Instr} {s t : State} {m : Mode} {b : BlockMode} {w : Bool}
    {n : RegNum} {l : BitVec 16} (hr : restores i = true) (h : s.ldmReturn m b w n l = .ok t) :
    ControlNext i m s t := by
  simp only [State.ldmReturn, ite_eq_iff, reduceCtorEq, and_false, false_or] at h
  obtain ⟨-, h⟩ := h
  refine controlNext_loadBlock (fun u v hu he => ?_) h
  cases v with
  | none => cases he
  | some v =>
    obtain ⟨p, hp, -, -, -, rfl⟩ := State.returnFromException_ok.mp he
    exact .restored u p v hr (by rw [← spsr?_of_control hu, hp]) hu rfl

theorem controlNext_storeBlock {i : Instr} {s t : State} {m bank : Mode} {b : BlockMode} {w : Bool}
    {n : RegNum} {l : BitVec 16} (h : s.storeBlock m bank b w n l = .ok t) :
    ControlNext i m s t := by
  obtain ⟨-, ⟨u, hu, -, rfl⟩ | ⟨a, -, rfl⟩⟩ := State.storeBlock_ok.mp h
  · exact .kept (by cases w <;> simp [control_writeWords hu])
  · exact controlNext_enterDataAbort i m a (by simp)

theorem controlNext_stmUser {i : Instr} {s t : State} {m : Mode} {b : BlockMode} {n : RegNum}
    {l : BitVec 16} (h : s.stmUser m b n l = .ok t) : ControlNext i m s t := by
  simp only [State.stmUser, ite_eq_iff, reduceCtorEq, and_false, false_or] at h
  obtain ⟨-, -, h⟩ := h
  exact controlNext_storeBlock h

/-- A CP15 access is Undefined in User mode, or does what its body does. -/
theorem controlNext_cp15Access {i : Instr} {s t : State} {m : Mode} {crn : BitVec 4} {d : RegNum}
    {op2 : BitVec 3} {crm : BitVec 4} {body : Res State}
    (hb : body = .ok t → ControlNext i m s t)
    (h : s.cp15Access m crn d op2 crm body = .ok t) : ControlNext i m s t := by
  rcases State.cp15Access_ok.mp h with ⟨-, rfl⟩ | ⟨-, -, -, he⟩
  · exact .entered s .undefined _ rfl rfl
  · exact hb he

/-! ### Every instruction -/

/-- A conditional instruction does what its body does, only advances, or aborts. -/
theorem controlNext_whenPassed {i : Instr} {s t : State} {c : Cond} {body : Mode → Res State}
    (hb : ∀ m, body m = .ok t → ControlNext i m s t) (h : s.whenPassed c body = .next t) :
    ∃ m, s.mode? = some m ∧ ControlNext i m s t := by
  obtain ⟨m, hm, ⟨-, -, rfl⟩ | ⟨-, hok | ⟨a, -, rfl⟩⟩⟩ := State.whenPassed_next.mp h
  · exact ⟨m, hm, .kept (by simp)⟩
  · exact ⟨m, hm, hb m hok⟩
  · exact ⟨m, hm, controlNext_enterDataAbort i m a rfl⟩

/-- What any of the 66 instructions does to the control part. -/
theorem exec_controlNext {i : Instr} {s t : State} (h : exec i s = .next t) :
    ∃ m, s.mode? = some m ∧ ControlNext i m s t := by
  cases exec_meaning i s with
  | load c k uv o d p he =>
    exact controlNext_whenPassed (fun m ht => .kept (control_loadSingle ht)) (he ▸ h)
  | store c w uv o d p he =>
    exact controlNext_whenPassed (fun m ht => .kept (control_storeSingle ht)) (he ▸ h)
  | ldm c b w n l he => exact controlNext_whenPassed (fun m => controlNext_ldm) (he ▸ h)
  | ldmReturn c b w n l he hr =>
    exact controlNext_whenPassed (fun m => controlNext_ldmReturn hr) (he ▸ h)
  | ldmUser c b n l he => exact controlNext_whenPassed (fun m => controlNext_ldmUser) (he ▸ h)
  | stm c b w n l he => exact controlNext_whenPassed (fun m => controlNext_storeBlock) (he ▸ h)
  | stmUser c b n l he => exact controlNext_whenPassed (fun m => controlNext_stmUser) (he ▸ h)
  | swi c he =>
    exact controlNext_whenPassed
      (fun m ht => .entered s .swi (s.pc + 4) rfl (Res.ok.inj ht).symm) (he ▸ h)
  | swap c w n d x he =>
    exact controlNext_whenPassed (fun m ht => .kept (control_swap ht)) (he ▸ h)
  | clz c d x he =>
    simp only [he, execClz, ite_eq_iff, reduceCtorEq, and_false, or_false] at h
    refine controlNext_whenPassed (fun m ht => .kept ?_) h.2
    simp only [ite_eq_iff, reduceCtorEq, and_false, false_or] at ht
    simpa using control_advance ht.2
  | mrc c crn d op2 crm he =>
    refine controlNext_whenPassed (fun m => controlNext_cp15Access fun ht => .kept ?_)
      (he.symm.trans h)
    simpa using control_advance ht
  | mcr c crn d op2 crm he =>
    refine controlNext_whenPassed (fun m => controlNext_cp15Access fun ht => ?_) (he.symm.trans h)
    simp only [ite_eq_iff, reduceCtorEq, and_false, or_false] at ht
    obtain ⟨-, rfl⟩ := State.advance_ok.mp ht.2
    exact .wroteControlReg (s.readReg m d) ht.1 rfl

/-- Bits 31:8 of the CPSR change only where a return restores it from the SPSR of the mode. -/
theorem ControlNext.flags {i : Instr} {m : Mode} {s t : State} (h : ControlNext i m s t) :
    t.cpsr.extractLsb' 8 24 = s.cpsr.extractLsb' 8 24 ∨
      (restores i = true ∧ s.spsr? m = some t.cpsr) := by
  cases h with
  | kept h => exact .inl (by rw [cpsr_of_control h])
  | entered u e ret hu ht =>
    exact .inl (by rw [ht, State.enterException_cpsr, flags_entryCpsr, cpsr_of_control hu])
  | restored u p v hr hp _ ht => exact .inr ⟨hr, by rw [hp, ht]; rfl⟩
  | wroteControlReg v _ ht => exact .inl (by rw [ht]; rfl)

/-- Settles O18: of the four things an instruction can do to the CPSR only the return writes its flags
and reserved bits. -/
theorem onlyReturnsWriteTheFlags : Obligations.OnlyReturnsWriteTheFlags := by
  intro i s t m hm h
  obtain ⟨k, hk, hnext⟩ := exec_controlNext h
  obtain rfl : k = m := Option.some.inj (hk.symm.trans hm)
  exact hnext.flags

end Sys2Proof.Machine
end

section
/-! ## What no step changes (spec 10_state.md R29, 20_memory.md R66, 00_scope.md R5) -/

namespace Sys2Proof.Machine

/-- The constants of a run, and the inputs still to come, are the same in the two states. -/
structure SameConstants (s t : State) : Prop where
  c1Other : ∀ k, k ≠ 1 → t.cp15c1.getLsbD k = s.cp15c1.getLsbD k
  denials : t.denials = s.denials
  params : t.params = s.params
  lines : t.lines = s.lines

theorem sameConstants_of_control {s t : State} (h : t.control = s.control) : SameConstants s t :=
  ⟨fun k _ => by rw [cp15c1_of_control h], denials_of_control h, params_of_control h,
    lines_of_control h⟩

theorem SameConstants.trans {s t u : State} (h : SameConstants s t) (h' : SameConstants t u) :
    SameConstants s u :=
  ⟨fun k hk => (h'.c1Other k hk).trans (h.c1Other k hk), h'.denials.trans h.denials,
    h'.params.trans h.params, h'.lines.trans h.lines⟩

theorem sameConstants_enterException (s : State) (e : Exception) (ret : Word) :
    SameConstants s (s.enterException e ret) := by
  constructor <;> simp

/-- The mask of reset and MCR leaves every bit of CP15 register 1 but the flag A (R29). -/
theorem getLsbD_and_alignMask (v : Word) {k : Nat} (hk : k ≠ 1) :
    (v &&& 0xFFFFFFFD).getLsbD k = v.getLsbD k := by
  have mask : ∀ k < 32, k ≠ 1 → (0xFFFFFFFD : Word).getLsbD k = true := by decide
  rw [BitVec.getLsbD_and]
  by_cases hlt : k < 32
  · rw [mask k hlt hk, Bool.and_true]
  · rw [BitVec.getLsbD_of_ge v k (by omega), Bool.false_and]

/-- The reset input clears A and leaves C1_OTHER (60_exceptions.md R228). -/
theorem sameConstants_enterReset (s : State) : SameConstants s s.enterReset := by
  constructor
  case c1Other =>
    intro k hk
    exact getLsbD_and_alignMask s.cp15c1 hk
  all_goals simp [State.enterReset]

/-- Two values that agree under the mask of MCR agree in every bit but A (46_cp15_access.md R216). -/
theorem getLsbD_eq_of_and_alignMask_eq {v w : Word} (h : v &&& 0xFFFFFFFD = w &&& 0xFFFFFFFD)
    {k : Nat} (hk : k ≠ 1) : v.getLsbD k = w.getLsbD k := by
  rw [← getLsbD_and_alignMask v hk, h, getLsbD_and_alignMask w hk]

theorem ControlNext.sameConstants {i : Instr} {m : Mode} {s t : State} (h : ControlNext i m s t) :
    SameConstants s t := by
  cases h with
  | kept h => exact sameConstants_of_control h
  | entered u e ret hu ht =>
    exact ht ▸ (sameConstants_of_control hu).trans (sameConstants_enterException u e ret)
  | restored u p v _ _ hu ht =>
    obtain ⟨hc, hd, hp, hl⟩ := sameConstants_of_control hu
    exact ht ▸ ⟨hc, hd, hp, hl⟩
  | wroteControlReg v hv ht =>
    exact ht ▸ ⟨fun k hk => getLsbD_eq_of_and_alignMask_eq hv hk, rfl, rfl, rfl⟩

/-- A step passes one boundary and keeps the constants. -/
theorem step_sameConstants {s t : State} (h : step s = .next t) : SameConstants s.nextLines t := by
  cases step_next h with
  | reset ht => exact ht ▸ sameConstants_enterReset _
  | entry e _ ht => exact ht ▸ sameConstants_enterException _ _ _
  | executed w i _ _ _ _ he =>
    obtain ⟨m, -, hnext⟩ := exec_controlNext he
    exact (sameConstants_of_control (State.setHazard_control _ _)).trans hnext.sameConstants

/-- Settles O17: the constants are kept after the boundary, and the boundary takes one entry of the
inputs. -/
theorem stepKeepsTheConstants : Obligations.StepKeepsTheConstants := by
  intro s t h
  obtain ⟨hc, hd, hp, hl⟩ := step_sameConstants h
  exact ⟨hc, fun a w k p => by rw [State.denied, hd]; rfl, hp, hl⟩

end Sys2Proof.Machine
end

section
/-! ## The bytes a store writes (spec 20_memory.md R56, R72) -/

namespace Sys2Proof.Machine

open Sys2Proof.Claims

/-- The number of bytes of an access (20_memory.md R51). -/
def Width.bytes : Width → Nat
  | .byte => 1
  | .half => 2
  | .word => 4

theorem mem_widthTable {w : Width} {n : Nat}
    (h : (w, n) ∈ [(Width.byte, 1), (.half, 2), (.word, 4)]) : n = w.bytes := by
  simp only [List.mem_cons, Prod.mk.injEq, List.not_mem_nil, or_false] at h
  rcases h with ⟨rfl, rfl⟩ | ⟨rfl, rfl⟩ | ⟨rfl, rfl⟩ <;> rfl

/-- The bytes an access touches are as many as it is wide, from its address on. -/
theorem mem_storedAt_iff {a x : Word} {w : Width} : x ∈ storedAt a w ↔ span a w.bytes x := by
  have upTo : storedAt a w = (List.range w.bytes).map fun k => a + BitVec.ofNat 32 k := by
    cases w <;> simp [storedAt, Width.bytes, List.range_succ]
  simp only [upTo, span, List.mem_map, List.mem_range, eq_comm]

/-- After a store the written addresses are the stored bytes and those written before. -/
theorem mem_written_store {s : State} {a v : Word} {w : Width} {x : Nat} :
    x ∈ (s.store a w v).written ↔ (∃ y ∈ storedAt a w, x = y.toNat) ∨ x ∈ s.written := by
  cases w <;>
    simp only [State.store, State.storeByte_written, mem_insertAddr, storedAt, List.mem_cons,
      List.not_mem_nil, or_false, exists_eq_or_imp, exists_eq_left] <;> tauto

/-- Byte `k` of a stored value is read back at the address `k` above that of the store. -/
theorem byteAt_store_of_lt (s : State) (a v : Word) {w : Width} {k : Nat} (hk : k < w.bytes) :
    (s.store a w v).byteAt (a + BitVec.ofNat 32 k) = some (v.extractLsb' (8 * k) 8) := by
  cases w with
  | byte =>
    obtain rfl : k = 0 := by simpa [Width.bytes] using hk
    simp [State.store, State.byteAt_storeByte]
  | half =>
    have hk : k = 0 ∨ k = 1 := by simp only [Width.bytes] at hk; omega
    rcases hk with rfl | rfl <;> simp [State.store, State.byteAt_storeByte]
  | word =>
    obtain ⟨h0, h1, h2, h3⟩ := byteAt_storeWord s a v
    have hk : k = 0 ∨ k = 1 ∨ k = 2 ∨ k = 3 := by simp only [Width.bytes] at hk; omega
    rcases hk with rfl | rfl | rfl | rfl
    · simpa using h0
    · exact h1
    · exact h2
    · exact h3

/-- Settles O25: the stored bytes are those of `storedAt`, which are the bytes of the span. -/
theorem storesWriteTheirBytes : Obligations.StoresWriteTheirBytes := by
  intro s a v x w n hn
  obtain rfl := mem_widthTable hn
  refine ⟨fun k hk => ⟨byteAt_store_of_lt s a v hk, ?_⟩, fun hx => ?_⟩
  · exact mem_written_store.mpr (.inl ⟨_, mem_storedAt_iff.mpr ⟨k, hk, rfl⟩, rfl⟩)
  · exact s.byteAt_store_of_not_mem a x w v (mt mem_storedAt_iff.mp hx)

end Sys2Proof.Machine
end

section
/-! ## What every step keeps: canonical memory, an aligned pc, a legal mode (spec 20_memory.md R50,
R72, R73, 10_state.md R25, R28) -/

namespace Sys2Proof.Machine

open Sys2Proof.Claims

/-! ### Memory -/

/-- The memory of `t`, with its written addresses, is that of `s` after some stores. -/
inductive StoredFrom (s : State) : State → Prop where
  | same {t : State} (hm : t.mem = s.mem) (hw : t.written = s.written) : StoredFrom s t
  | store {u t : State} (h : StoredFrom s u) (a : Word) (w : Width) (v : Word)
      (hm : t.mem = (u.store a w v).mem) (hw : t.written = (u.store a w v).written) :
      StoredFrom s t

theorem StoredFrom.trans {s t u : State} (h : StoredFrom s t) (h' : StoredFrom t u) :
    StoredFrom s u := by
  induction h' with
  | same hm hw =>
    cases h with
    | same hm' hw' => exact .same (hm.trans hm') (hw.trans hw')
    | store h a w v hm' hw' => exact .store h a w v (hm.trans hm') (hw.trans hw')
  | store _ a w v hm hw ih => exact .store ih a w v hm hw

theorem StoredFrom.memoryOk {s t : State} (h : StoredFrom s t) (hs : MemoryOk s) : MemoryOk t := by
  induction h with
  | same hm hw => exact hs.of_eq hm hw
  | store _ a w v hm hw ih => exact (ih.store a w v).of_eq hm hw

/-- No store takes an address out of the written ones. -/
theorem StoredFrom.written_subset {s t : State} (h : StoredFrom s t) : s.written ⊆ t.written := by
  induction h with
  | same hm hw => exact hw ▸ List.Subset.refl _
  | store _ a w v hm hw ih =>
    intro x hx
    rw [hw]
    exact mem_written_store.mpr (.inr (ih hx))

/-- A byte that differs was stored, and counts as written (R72). -/
theorem StoredFrom.mem_written_of_ne {s t : State} (h : StoredFrom s t) {x : Word}
    (hx : t.byteAt x ≠ s.byteAt x) : x.toNat ∈ t.written := by
  induction h with
  | same hm hw => exact absurd (by rw [State.byteAt, hm]; rfl) hx
  | @store u t _ a w v hm hw ih =>
    rw [hw]
    apply mem_written_store.mpr
    by_cases hmem : x ∈ storedAt a w
    · exact .inl ⟨x, hmem, rfl⟩
    · have hu : t.byteAt x = u.byteAt x := by
        rw [State.byteAt, hm]
        exact u.byteAt_store_of_not_mem a x w v hmem
      exact .inr (ih (hu ▸ hx))

/-! ### The status register and the pc -/

/-- The mode bits are those of a mode, and T is 0 (10_state.md R25, R28). -/
def LegalPsr (p : Word) : Prop := (psrMode? p).isSome ∧ psrT p = false

theorem legalPsr_entryCpsr (e : Exception) (old : Word) : LegalPsr (e.entryCpsr old) :=
  ⟨by rw [psrMode_entryCpsr]; rfl, psrT_entryCpsr e old⟩

/-- The low byte of the CPSR after the reset input is that of Supervisor mode with T = 0, whatever the
other bits are (60_exceptions.md R228). -/
theorem legalPsr_resetCpsr (v : Word) : LegalPsr ((v &&& 0xFFFFFF00) ||| 0xD3) := by
  have mode : ((v &&& 0xFFFFFF00) ||| 0xD3).extractLsb' 0 5 = 0b10011#5 := by
    rw [BitVec.extractLsb'_or, BitVec.extractLsb'_and,
      show (0xFFFFFF00 : Word).extractLsb' 0 5 = 0#5 by decide, BitVec.and_zero, BitVec.zero_or]
    decide
  refine ⟨?_, ?_⟩
  · rw [psrMode?, mode]
    decide
  · rw [psrT, BitVec.getLsbD_or, BitVec.getLsbD_and,
      show (0xFFFFFF00 : Word).getLsbD 5 = false by decide, Bool.and_false, Bool.false_or]
    decide

theorem aligned_add_four {v : Word} (h : v.extractLsb' 0 2 = 0) : (v + 4).extractLsb' 0 2 = 0 := by
  rw [low_two_bits] at h ⊢
  bv_omega

/-- What every part of an instruction does: memory changes by stores alone, an aligned pc stays
aligned, and the status register is kept or gets a legal value. -/
structure Lawful (s t : State) : Prop where
  memory : StoredFrom s t
  aligned : s.pc.extractLsb' 0 2 = 0 → t.pc.extractLsb' 0 2 = 0
  status : t.cpsr = s.cpsr ∨ LegalPsr t.cpsr

theorem Lawful.trans {s t u : State} (h : Lawful s t) (h' : Lawful t u) : Lawful s u :=
  ⟨h.memory.trans h'.memory, fun hs => h'.aligned (h.aligned hs),
    h'.status.elim (fun e => e ▸ h.status) .inr⟩

/-- A part that leaves memory, the pc and the status register alone. -/
theorem Lawful.of_eq {s t : State} (hm : t.mem = s.mem) (hw : t.written = s.written)
    (hp : t.pc = s.pc) (hc : t.cpsr = s.cpsr) : Lawful s t :=
  ⟨.same hm hw, fun h => hp ▸ h, .inl hc⟩

/-- The invariant is the canonical memory, the aligned pc and the legal status register. -/
theorem Lawful.inv {s t : State} (h : Lawful s t) (hs : Inv s) : Inv t := by
  have hmem : MemoryOk t := h.memory.memoryOk ⟨hs.mem, hs.written, hs.valued⟩
  have hpsr : LegalPsr t.cpsr := h.status.elim (fun e => e ▸ ⟨hs.mode, hs.thumb⟩) id
  exact
    { mem := hmem.mem, written := hmem.written, valued := hmem.valued
      aligned := h.aligned hs.aligned, mode := hpsr.1, thumb := hpsr.2 }

/-! ### The shared operations -/

theorem lawful_setPc {s : State} {v : Word}
    (h : s.pc.extractLsb' 0 2 = 0 → v.extractLsb' 0 2 = 0) : Lawful s (s.setPc v) :=
  ⟨.same rfl rfl, h, .inl rfl⟩

theorem lawful_writeReg (s : State) (m : Mode) (i : RegNum) (v : Word) :
    Lawful s (s.writeReg m i v) :=
  .of_eq (by simp) (by simp) (by simp) (by simp)

theorem lawful_writeBack (s : State) (m : Mode) (o : MemOperand) (v : Word) :
    Lawful s (s.writeBack m o v) :=
  .of_eq (by simp) (by simp) (by simp) (by simp)

theorem lawful_writeRegs (s : State) (m : Mode) (l : List (RegNum × Word)) :
    Lawful s (s.writeRegs m l) :=
  .of_eq (by simp) (by simp) (by simp) (by simp)

theorem lawful_drawRegs (s : State) (l : List PhysReg) : Lawful s (s.drawRegs l) :=
  .of_eq (by simp) (by simp) (by simp) (by simp)

theorem lawful_setHazard (s : State) (b : Bool) : Lawful s (s.setHazard b) :=
  .of_eq rfl rfl rfl rfl

theorem lawful_store (s : State) (a : Word) (w : Width) (v : Word) : Lawful s (s.store a w v) :=
  ⟨.store (.same rfl rfl) a w v rfl rfl, by simp, .inl (by simp)⟩

theorem lawful_drawWords (s : State) (a : Word) (l : List Word) : Lawful s (s.drawWords a l) := by
  induction l generalizing s a with
  | nil => exact .of_eq rfl rfl rfl rfl
  | cons v l ih =>
    have hdraw : Lawful s (s.setDraws (s.draws + 1)) := .of_eq rfl rfl rfl rfl
    rw [State.drawWords]
    refine .trans ?_ (ih _ _)
    split
    · exact hdraw.trans (lawful_store _ _ _ _)
    · exact hdraw

theorem lawful_writeWords {s t : State} {p : Priv} {a : Word} {l : List Word}
    (h : s.writeWords p a l = .ok t) : Lawful s t := by
  induction l generalizing s a with
  | nil => cases h; exact .of_eq rfl rfl rfl rfl
  | cons v l ih =>
    simp only [State.writeWords, Res.bind_ok, State.memWrite_ok] at h
    obtain ⟨u, ⟨-, rfl⟩, h⟩ := h
    exact (lawful_store s a .word v).trans (ih h)

theorem lawful_advance {s t : State} (h : s.advance = .ok t) : Lawful s t := by
  obtain ⟨-, rfl⟩ := State.advance_ok.mp h
  exact lawful_setPc aligned_add_four

theorem lawful_jump {s t : State} {v : Word} (h : s.jump v = .ok t) : Lawful s t := by
  obtain ⟨hv, rfl⟩ := State.jump_ok.mp h
  exact lawful_setPc fun _ => hv

/-- A return gives the CPSR only the SPSR of a legal mode with T = 0 (42_multiple.md R183). -/
theorem lawful_returnFromException {s t : State} {m : Mode} {v : Word}
    (h : s.returnFromException m v = .ok t) : Lawful s t := by
  obtain ⟨p, -, hT, hM, hv, rfl⟩ := State.returnFromException_ok.mp h
  exact ⟨.same rfl rfl, fun _ => hv, .inr ⟨Option.isSome_iff_ne_none.mpr hM, hT⟩⟩

theorem lawful_enterException (s : State) (e : Exception) (ret : Word) :
    Lawful s (s.enterException e ret) := by
  refine ⟨.same (by simp) (by simp), fun _ => ?_, .inr ?_⟩
  · rw [State.enterException_pc]
    cases e <;> decide
  · rw [State.enterException_cpsr]
    exact legalPsr_entryCpsr e s.cpsr

theorem lawful_enterDataAbort (s : State) (i : AbortInfo) : Lawful s (s.enterDataAbort i) := by
  have record : Lawful s (s.setAbort i) := .of_eq rfl rfl rfl rfl
  exact record.trans (lawful_enterException (s.setAbort i) .dataAbort (s.pc + 8))

/-- The reset input leaves memory, as log 7 has it. -/
theorem lawful_enterReset (s : State) : Lawful s s.enterReset :=
  ⟨.same (by simp [State.enterReset]) (by simp [State.enterReset]),
    fun _ => by simp only [State.enterReset]; decide, .inr (legalPsr_resetCpsr _)⟩

/-! ### The transfers -/

theorem lawful_finishLoad {s t : State} {m : Mode} {d : RegNum} {v : Word}
    (h : s.finishLoad m d v = .ok t) : Lawful s t := by
  unfold State.finishLoad at h
  split at h
  · exact lawful_jump h
  · exact (lawful_writeReg s m d v).trans (lawful_advance h)

theorem lawful_loadSingle {s t : State} {m : Mode} {k : LoadKind} {uv : Bool} {o : MemOperand}
    {d : RegNum} {p : Bool} (h : s.loadSingle m k uv o d p = .ok t) : Lawful s t := by
  obtain ⟨-, -, v, -, hf⟩ := State.loadSingle_ok.mp h
  exact (lawful_writeBack s m o _).trans (lawful_finishLoad hf)

theorem lawful_storeSingle {s t : State} {m : Mode} {w : Width} {uv : Bool} {o : MemOperand}
    {d : RegNum} {p : Bool} (h : s.storeSingle m w uv o d p = .ok t) : Lawful s t := by
  obtain ⟨-, -, -, -, rfl⟩ := State.storeSingle_ok.mp h
  refine ((lawful_store s _ w _).trans (lawful_writeBack _ m o _)).trans (lawful_setPc ?_)
  simpa using aligned_add_four

theorem lawful_swap {s t : State} {m : Mode} {w : Width} {n d r : RegNum}
    (h : s.swap m w n d r = .ok t) : Lawful s t := by
  obtain ⟨-, -, -, -, v, -, rfl⟩ := State.swap_ok.mp h
  refine ((lawful_store s _ w _).trans (lawful_writeReg _ m d v)).trans (lawful_setPc ?_)
  simpa using aligned_add_four

/-- An LDM is lawful when what ends it is. -/
theorem lawful_loadBlock {s t : State} {m bank : Mode} {b : BlockMode} {w : Bool} {n : RegNum}
    {l : BitVec 16} {finish : State → Option Word → Res State}
    (hf : ∀ u v, finish u v = .ok t → Lawful u t)
    (h : s.loadBlock m bank b w n l finish = .ok t) : Lawful s t := by
  obtain ⟨-, ⟨vs, -, he⟩ | ⟨a, -, rfl⟩⟩ := State.loadBlock_ok.mp h
  · refine .trans ?_ ((lawful_writeRegs _ bank vs).trans (hf _ _ he))
    split
    · exact lawful_writeReg s m n _
    · exact .of_eq rfl rfl rfl rfl
  · exact (lawful_drawRegs s _).trans (lawful_enterDataAbort _ a)

theorem lawful_ldm {s t : State} {m : Mode} {b : BlockMode} {w : Bool} {n : RegNum}
    {l : BitVec 16} (h : s.ldm m b w n l = .ok t) : Lawful s t := by
  refine lawful_loadBlock (fun u v he => ?_) h
  cases v with
  | none => exact lawful_advance he
  | some v => exact lawful_jump he

theorem lawful_ldmReturn {s t : State} {m : Mode} {b : BlockMode} {w : Bool} {n : RegNum}
    {l : BitVec 16} (h : s.ldmReturn m b w n l = .ok t) : Lawful s t := by
  simp only [State.ldmReturn, ite_eq_iff, reduceCtorEq, and_false, false_or] at h
  refine lawful_loadBlock (fun u v he => ?_) h.2
  cases v with
  | none => cases he
  | some v => exact lawful_returnFromException he

theorem lawful_ldmUser {s t : State} {m : Mode} {b : BlockMode} {n : RegNum} {l : BitVec 16}
    (h : s.ldmUser m b n l = .ok t) : Lawful s t := by
  simp only [State.ldmUser, ite_eq_iff, reduceCtorEq, and_false, false_or] at h
  obtain ⟨-, -, h⟩ := h
  exact lawful_loadBlock (fun u _ he => (lawful_setHazard u true).trans (lawful_advance he)) h

theorem lawful_storeBlock {s t : State} {m bank : Mode} {b : BlockMode} {w : Bool} {n : RegNum}
    {l : BitVec 16} (h : s.storeBlock m bank b w n l = .ok t) : Lawful s t := by
  obtain ⟨-, ⟨u, hu, -, rfl⟩ | ⟨a, -, rfl⟩⟩ := State.storeBlock_ok.mp h
  · refine (lawful_writeWords hu).trans ?_
    split
    · exact (lawful_writeReg u m n _).trans (lawful_setPc (by simpa using aligned_add_four))
    · exact lawful_setPc aligned_add_four
  · exact (lawful_drawWords s _ _).trans (lawful_enterDataAbort _ a)

theorem lawful_stmUser {s t : State} {m : Mode} {b : BlockMode} {n : RegNum} {l : BitVec 16}
    (h : s.stmUser m b n l = .ok t) : Lawful s t := by
  simp only [State.stmUser, ite_eq_iff, reduceCtorEq, and_false, false_or] at h
  obtain ⟨-, -, h⟩ := h
  exact lawful_storeBlock h

/-- A CP15 access is Undefined in User mode, or does what its body does. -/
theorem lawful_cp15Access {s t : State} {m : Mode} {crn : BitVec 4} {d : RegNum} {op2 : BitVec 3}
    {crm : BitVec 4} {body : Res State} (hb : body = .ok t → Lawful s t)
    (h : s.cp15Access m crn d op2 crm body = .ok t) : Lawful s t := by
  rcases State.cp15Access_ok.mp h with ⟨-, rfl⟩ | ⟨-, -, -, he⟩
  · exact lawful_enterException s .undefined _
  · exact hb he

/-! ### Every instruction and every step -/

/-- A conditional instruction does what its body does, only advances, or aborts. -/
theorem lawful_whenPassed {s t : State} {c : Cond} {body : Mode → Res State}
    (hb : ∀ m, body m = .ok t → Lawful s t) (h : s.whenPassed c body = .next t) : Lawful s t := by
  obtain ⟨m, -, ⟨-, -, rfl⟩ | ⟨-, hok | ⟨a, -, rfl⟩⟩⟩ := State.whenPassed_next.mp h
  · exact lawful_setPc aligned_add_four
  · exact hb m hok
  · exact lawful_enterDataAbort s a

/-- Each of the 66 instructions is lawful. -/
theorem exec_lawful {i : Instr} {s t : State} (h : exec i s = .next t) : Lawful s t := by
  cases exec_meaning i s with
  | load c k uv o d p he => exact lawful_whenPassed (fun _ => lawful_loadSingle) (he ▸ h)
  | store c w uv o d p he => exact lawful_whenPassed (fun _ => lawful_storeSingle) (he ▸ h)
  | ldm c b w n l he => exact lawful_whenPassed (fun _ => lawful_ldm) (he ▸ h)
  | ldmReturn c b w n l he => exact lawful_whenPassed (fun _ => lawful_ldmReturn) (he ▸ h)
  | ldmUser c b n l he => exact lawful_whenPassed (fun _ => lawful_ldmUser) (he ▸ h)
  | stm c b w n l he => exact lawful_whenPassed (fun _ => lawful_storeBlock) (he ▸ h)
  | stmUser c b n l he => exact lawful_whenPassed (fun _ => lawful_stmUser) (he ▸ h)
  | swi c he =>
    exact lawful_whenPassed
      (fun _ ht => Res.ok.inj ht ▸ lawful_enterException s .swi (s.pc + 4)) (he ▸ h)
  | swap c w n d x he => exact lawful_whenPassed (fun _ => lawful_swap) (he ▸ h)
  | clz c d x he =>
    simp only [he, execClz, ite_eq_iff, reduceCtorEq, and_false, or_false] at h
    refine lawful_whenPassed (fun m ht => ?_) h.2
    simp only [ite_eq_iff, reduceCtorEq, and_false, false_or] at ht
    exact (lawful_writeReg s m d _).trans (lawful_advance ht.2)
  | mrc c crn d op2 crm he =>
    exact lawful_whenPassed
      (fun m => lawful_cp15Access fun ht => (lawful_writeReg s m d _).trans (lawful_advance ht))
      (he.symm.trans h)
  | mcr c crn d op2 crm he =>
    refine lawful_whenPassed (fun m => lawful_cp15Access fun ht => ?_) (he.symm.trans h)
    simp only [ite_eq_iff, reduceCtorEq, and_false, or_false] at ht
    have hset : Lawful s (s.setCp15c1 (s.readReg m d)) := .of_eq rfl rfl rfl rfl
    exact hset.trans (lawful_advance ht.2)

/-- Every step is lawful: it passes the boundary, then resets, enters an exception or executes. -/
theorem step_lawful {s t : State} (h : step s = .next t) : Lawful s t := by
  have boundary : Lawful s s.nextLines := .of_eq rfl rfl rfl rfl
  refine boundary.trans ?_
  cases step_next h with
  | reset ht => exact ht ▸ lawful_enterReset _
  | entry e _ ht => exact ht ▸ lawful_enterException _ e _
  | executed w i _ _ _ _ he => exact (lawful_setHazard _ false).trans (exec_lawful he)

/-- Settles O14: every step is lawful, and what is lawful keeps the invariant. -/
theorem stepKeepsInv : Obligations.StepKeepsInv :=
  fun _ _ hs h => (step_lawful h).inv hs

/-- Settles O19: a step changes memory by stores alone, and a store counts its bytes as written. -/
theorem changedBytesCountAsWritten : Obligations.ChangedBytesCountAsWritten := by
  intro s t h
  have hmem : StoredFrom s t := (step_lawful h).memory
  exact ⟨fun _ hx => hmem.mem_written_of_ne hx, fun _ hx => hmem.written_subset hx⟩

end Sys2Proof.Machine
end

section
/-! ## The fetch of a written word (spec 20_memory.md R72) -/

namespace Sys2Proof.Machine

open Sys2Proof.Claims

/-- A word counts as written when one of its four bytes does. -/
theorem wroteWord_of_span {s : State} {a x : Word} (h : span a 4 x) (hx : x.toNat ∈ s.written) :
    s.wroteWord a = true :=
  List.any_eq_true.mpr ⟨x, mem_storedAt_iff (w := .word).mpr h, decide_eq_true hx⟩

/-- Settles O9: the permitted fetch at the aligned pc comes to the test of R72. -/
theorem fetchFromWrittenLocationIsRefused : Obligations.FetchFromWrittenLocationIsRefused := by
  intro s m x hat hperm hx hwritten
  have hm : s.nextLines.mode? = some m := hat.mode
  have ht : psrT s.nextLines.cpsr = false := hat.thumb
  have ha : aligned s.nextLines.pc .word = true := (aligned_word _).mpr hat.aligned
  have hp : s.nextLines.denied s.nextLines.pc .word .fetch m.priv = false := hperm
  have hw : s.nextLines.wroteWord s.nextLines.pc = true := wroteWord_of_span hx hwritten
  have hfetch : s.nextLines.fetch = .refuse .fetchFromWrittenLocation := by
    simp only [State.fetch, hm, ht, ha, hp, hw, Bool.not_true, Bool.false_eq_true, if_false, if_true]
  rw [step_of_quiet hat.endian hat.quiet, stepInstr, hfetch]

end Sys2Proof.Machine
end

section
/-! ## The bytes of words and half-words, and their rotation (spec 20_memory.md R52, R57) -/

namespace Sys2Proof.Machine

open Sys2Proof.Claims

/-- Bit `i` of four bytes put together, the last one lowest, is a bit of the byte it falls into. -/
theorem getLsbD_bytes (b3 b2 b1 b0 : Byte) (i : Nat) :
    (b3 ++ b2 ++ b1 ++ b0).getLsbD i =
      if i < 8 then b0.getLsbD i else if i < 16 then b1.getLsbD (i - 8)
      else if i < 24 then b2.getLsbD (i - 16) else b3.getLsbD (i - 24) := by
  simp only [BitVec.getLsbD_append, Nat.sub_sub]
  grind

/-- The byte of a word at each of its four addresses (R52). -/
theorem extractLsb'_bytes (b3 b2 b1 b0 : Byte) :
    (b3 ++ b2 ++ b1 ++ b0).extractLsb' 0 8 = b0 ∧ (b3 ++ b2 ++ b1 ++ b0).extractLsb' 8 8 = b1 ∧
      (b3 ++ b2 ++ b1 ++ b0).extractLsb' 16 8 = b2 ∧
      (b3 ++ b2 ++ b1 ++ b0).extractLsb' 24 8 = b3 := by
  refine ⟨?_, ?_, ?_, ?_⟩
  all_goals
    refine BitVec.eq_of_getLsbD_eq fun i hi => ?_
    rw [BitVec.getLsbD_extractLsb', getLsbD_bytes]
    grind

/-- Settles O24: a word or half-word is the concatenation of its bytes, the byte at the lowest address
lowest. -/
theorem bytesOfWordsAndHalfwords : Obligations.BytesOfWordsAndHalfwords := by
  intro s a
  refine ⟨fun w hw => ?_, fun h hh => ?_⟩
  · unfold State.wordAt at hw
    split at hw
    · next b0 b1 b2 b3 h0 h1 h2 h3 =>
      obtain rfl := Option.some.inj hw
      obtain ⟨e0, e1, e2, e3⟩ := extractLsb'_bytes b3 b2 b1 b0
      exact ⟨by rw [h0, e0], by rw [h1, e1], by rw [h2, e2], by rw [h3, e3]⟩
    · cases hw
  · unfold State.halfAt at hh
    split at hh
    · next b0 b1 h0 h1 =>
      obtain rfl := Option.some.inj hh
      exact ⟨by rw [h0, BitVec.extractLsb'_append_eq_right],
        by rw [h1, BitVec.extractLsb'_append_eq_left]⟩
    · cases hh

/-- A bit of a rotated word. -/
theorem getLsbD_rotateRight_word (v : Word) {k i : Nat} (hk : k < 32) (hi : i < 32) :
    (v.rotateRight k).getLsbD i = v.getLsbD (if i < 32 - k then k + i else i - (32 - k)) := by
  rw [BitVec.getLsbD_rotateRight, Nat.mod_eq_of_lt hk]
  split <;> simp [*]

/-- A word rotated right by whole bytes: the low bytes come out on top (R57). -/
theorem rotateRight_bytes (b3 b2 b1 b0 : Byte) :
    (b3 ++ b2 ++ b1 ++ b0).rotateRight 0 = b3 ++ b2 ++ b1 ++ b0 ∧
      (b3 ++ b2 ++ b1 ++ b0).rotateRight 8 = b0 ++ b3 ++ b2 ++ b1 ∧
      (b3 ++ b2 ++ b1 ++ b0).rotateRight 16 = b1 ++ b0 ++ b3 ++ b2 ∧
      (b3 ++ b2 ++ b1 ++ b0).rotateRight 24 = b2 ++ b1 ++ b0 ++ b3 := by
  refine ⟨?_, ?_, ?_, ?_⟩
  all_goals
    refine BitVec.eq_of_getLsbD_eq fun i hi => ?_
    rw [getLsbD_rotateRight_word _ (by decide) hi, getLsbD_bytes, getLsbD_bytes]
    grind

/-- A word whose four bytes have values. -/
theorem wordAt_of_bytes {s : State} {a : Word} {b0 b1 b2 b3 : Byte} (h0 : s.byteAt a = some b0)
    (h1 : s.byteAt (a + 1) = some b1) (h2 : s.byteAt (a + 2) = some b2)
    (h3 : s.byteAt (a + 3) = some b3) : s.wordAt a = some (b3 ++ b2 ++ b1 ++ b0) := by
  rw [State.wordAt, h0, h1, h2, h3]

/-- A loaded word is rotated by its address modulo 4. -/
theorem extend_word (a v : Word) : LoadKind.word.extend a v = v.rotateRight (8 * (a.toNat % 4)) := by
  rw [LoadKind.extend, BitVec.extractLsb'_toNat]
  rfl

/-- Rd holds the loaded value. -/
theorem readReg_loaded (f : Form) (s : State) (m : Mode) (n : RegNum) {d : RegNum} (v : Word)
    (hd : d ≠ 15) : (f.loaded s m n d v).readReg m d = v := by
  obtain ⟨p, hp⟩ := physReg_isSome (m := m) hd
  rw [Form.loaded, readReg_eq hp, State.setPc_getPhys, getPhys_writeReg, if_pos hp]

/-- LDR of a register other than r15 goes on with the aligned word, rotated (R57, R124). -/
theorem exec_ldr_next {s : State} {m : Mode} {c : Cond} {n d : RegNum} {x : Sdt} {v : Word}
    (hr : Ready s m c) (hd : d ≠ 15) (hl : (x.form s m).Legal n d)
    (ha : WordGoes s ((x.form s m).addr (s.readReg m n)))
    (hv : CanRead s m.priv (wordBase ((x.form s m).addr (s.readReg m n))) .word v) :
    exec (ldr c n d x) s = .next ((x.form s m).loaded s m n d
      (v.rotateRight (8 * (((x.form s m).addr (s.readReg m n)).toNat % 4)))) := by
  have hload := (x.denotes s m n).loadSingle (k := .word) (uv := false) (p := true) hl hd hr.next
    (checkAlign_word.mpr ha) hv
  rw [exec_ldr, State.whenPassed_of_passed hr.runs.mode hr.runs.passed, hload, State.conclude_ok,
    extend_word]

/-- Settles O27: the four rotations of the word that the bytes make. -/
theorem unalignedLdrRotates : Obligations.UnalignedLdrRotates := by
  intro s m c n d x b0 b1 b2 b3 a hr hd hl hA hU ha hperm h0 h1 h2 h3
  have hv : CanRead s m.priv a .word (b3 ++ b2 ++ b1 ++ b0) :=
    ⟨hperm, wordAt_of_bytes h0 h1 h2 h3⟩
  refine ⟨_, exec_ldr_next hr hd hl (.inr ⟨hA, hU⟩) (ha ▸ hv), ?_⟩
  rw [readReg_loaded _ _ _ _ _ hd]
  obtain ⟨r0, r1, r2, r3⟩ := rotateRight_bytes b3 b2 b1 b0
  generalize ((x.form s m).addr (s.readReg m n)).toNat = k
  have hk : k % 4 = 0 ∨ k % 4 = 1 ∨ k % 4 = 2 ∨ k % 4 = 3 := by omega
  rcases hk with e | e | e | e <;> rw [e]
  · exact r0
  · exact r1
  · exact r2
  · exact r3

end Sys2Proof.Machine
end

section
/-! ## Unaligned accesses (spec 20_memory.md R59, R60, R62) -/

namespace Sys2Proof.Machine

open Sys2Proof.Claims

/-! ### What the alignment rules answer -/

theorem not_aligned_word {a : Word} (h : a.toNat % 4 ≠ 0) : aligned a .word = false :=
  Bool.eq_false_iff.mpr (mt (aligned_word a).mp h)

theorem not_aligned_half {a : Word} (h : a.toNat % 2 ≠ 0) : aligned a .half = false :=
  Bool.eq_false_iff.mpr (mt (aligned_half a).mp h)

/-- R60, R152. -/
theorem checkAlign_refuses_half {s : State} {a : Word} (ha : aligned a .half = false)
    (hA : s.alignFlag = false) (hU : s.params.unalignedHw = false) :
    s.checkAlign a .half = .refuse .unalignedHalfword := by
  simp [State.checkAlign, ha, hA, hU]

/-- R62. -/
theorem checkAlign_refuses_hw {s : State} {a : Word} {w : Width} (ha : aligned a w = false)
    (hA : s.alignFlag = false) (hU : s.params.unalignedHw = true) :
    s.checkAlign a w = .refuse .unalignedHwNotSpecified := by
  simp [State.checkAlign, ha, hA, hU]

/-! ### The single transfers come to the alignment rules first -/

/-- A load whose operands are admitted starts with the alignment rules at its address. -/
theorem loadSingle_checks {o : MemOperand} {f : Form} {s : State} {m : Mode} {n d : RegNum}
    (h : Denotes o f s m n) (hl : f.Legal n d) (k : LoadKind) (uv : Bool) {p : Bool}
    (hd : d = 15 → p = true) :
    ∃ rest, s.loadSingle m k uv o d p =
      (s.checkAlign (f.addr (s.readReg m n)) k.width).bind rest := by
  rw [State.loadSingle, h.predictable.mpr ⟨hl, hd⟩, ← h.address]
  exact ⟨_, rfl⟩

/-- A store whose operands are admitted starts with the alignment rules at its address. -/
theorem storeSingle_checks {o : MemOperand} {f : Form} {s : State} {m : Mode} {n d : RegNum}
    (h : Denotes o f s m n) (hl : f.Legal n d) (w : Width) (uv : Bool) {p : Bool}
    (hd : d = 15 → p = true) :
    ∃ rest, s.storeSingle m w uv o d p =
      (s.checkAlign (f.addr (s.readReg m n)) w).bind rest := by
  rw [State.storeSingle, h.predictable.mpr ⟨hl, hd⟩, ← h.address]
  exact ⟨_, rfl⟩

/-- The instruction starts with the alignment rules for an access of this width at this address. -/
def ChecksFirst (i : Instr) (s : State) (a : Word) (w : Width) : Prop :=
  ∃ rest : Unit → Res State, exec i s = s.conclude ((s.checkAlign a w).bind rest)

/-- An instruction that is executed starts with the alignment rules when its body does. -/
theorem checksFirst_of_body {i : Instr} {s : State} {m : Mode} {c : Cond} {a : Word} {w : Width}
    {body : Mode → Res State} (hr : Runs s m c) (he : exec i s = s.whenPassed c body)
    (hb : ∃ rest, body m = (s.checkAlign a w).bind rest) : ChecksFirst i s a w := by
  obtain ⟨rest, hb⟩ := hb
  exact ⟨rest, by rw [he, State.whenPassed_of_passed hr.mode hr.passed, hb]⟩

theorem checksFirst_of_mem_sdt {i : Instr} {s : State} {m : Mode} {c : Cond} {n d : RegNum} {x : Sdt}
    (hr : Runs s m c) (hl : (x.form s m).Legal n d) (hi : i ∈ [ldr c n d x, str c n d x]) :
    ChecksFirst i s ((x.form s m).addr (s.readReg m n)) .word := by
  have hx := x.denotes s m n
  simp only [List.mem_cons, List.not_mem_nil, or_false] at hi
  rcases hi with rfl | rfl
  · exact checksFirst_of_body hr (exec_ldr ..) (loadSingle_checks hx hl .word false fun _ => rfl)
  · exact checksFirst_of_body hr (exec_str ..) (storeSingle_checks hx hl .word false fun _ => rfl)

theorem checksFirst_of_mem_sdtT {i : Instr} {s : State} {m : Mode} {c : Cond} {n d : RegNum}
    {x : SdtT} (hr : Runs s m c) (hl : (x.form s m).Legal n d) (hd : d ≠ 15)
    (hi : i ∈ [ldrt c n d x, strt c n d x]) : ChecksFirst i s (s.readReg m n) .word := by
  have hx := x.denotes s m n
  rw [← x.addr s m (s.readReg m n)]
  simp only [List.mem_cons, List.not_mem_nil, or_false] at hi
  rcases hi with rfl | rfl
  · exact checksFirst_of_body hr (exec_ldrt ..) (loadSingle_checks hx hl .word true (absurd · hd))
  · exact checksFirst_of_body hr (exec_strt ..) (storeSingle_checks hx hl .word true (absurd · hd))

theorem checksFirst_of_mem_hsdt {i : Instr} {s : State} {m : Mode} {c : Cond} {n d : RegNum}
    {x : Hsdt} (hr : Runs s m c) (hl : (x.form s m).Legal n d) (hd : d ≠ 15)
    (hi : i ∈ [ldrh c n d x, ldrsh c n d x, strh c n d x]) :
    ChecksFirst i s ((x.form s m).addr (s.readReg m n)) .half := by
  have hx := x.denotes s m n
  simp only [List.mem_cons, List.not_mem_nil, or_false] at hi
  rcases hi with rfl | rfl | rfl
  · exact checksFirst_of_body hr (exec_ldrh ..) (loadSingle_checks hx hl .uhalf false (absurd · hd))
  · exact checksFirst_of_body hr (exec_ldrsh ..) (loadSingle_checks hx hl .shalf false (absurd · hd))
  · exact checksFirst_of_body hr (exec_strh ..) (storeSingle_checks hx hl .half false (absurd · hd))

/-- What the alignment rules refuse, the instruction refuses. -/
theorem ChecksFirst.refused {i : Instr} {s : State} {a : Word} {w : Width} {r : Refusal}
    (h : ChecksFirst i s a w) (hc : s.checkAlign a w = .refuse r) : exec i s = .refused r := by
  obtain ⟨rest, he⟩ := h
  rw [he, hc]
  rfl

/-- With A = 1 the instruction takes a Data Abort at an unaligned address (R59). -/
theorem ChecksFirst.aborts {i : Instr} {s : State} {a : Word} {w : Width} (h : ChecksFirst i s a w)
    (ha : aligned a w = false) (hA : s.alignFlag = true) :
    ∃ t, exec i s = .next t ∧ DataAborts s t .alignment a := by
  obtain ⟨rest, he⟩ := h
  rw [State.checkAlign_abort.mpr ⟨ha, hA, rfl⟩] at he
  exact ⟨_, he, dataAborts_enterDataAbort s ⟨.alignment, a⟩⟩

/-- Settles O37: an odd address of a half-word transfer comes to the rule of R60. -/
theorem unalignedHalfwordsAreRefused : Obligations.UnalignedHalfwordsAreRefused := by
  intro s m c n d x hr hd hl hA hU ha i hi
  exact (checksFirst_of_mem_hsdt hr hl hd hi).refused
    (checkAlign_refuses_half (not_aligned_half ha) hA hU)

/-- Settles O38: the unaligned address of a half-word or word transfer comes to the rule of R62. -/
theorem unalignedHwAccessesAreRefused : Obligations.UnalignedHwAccessesAreRefused := by
  intro s m c n d hr hA hU
  refine ⟨fun x hl ha i hi => ?_, fun x hl hd ha i hi => ?_, fun x hl hd ha i hi => ?_⟩
  · exact (checksFirst_of_mem_sdt hr hl hi).refused
      (checkAlign_refuses_hw (not_aligned_word ha) hA hU)
  · exact (checksFirst_of_mem_sdtT hr hl hd hi).refused
      (checkAlign_refuses_hw (not_aligned_word ha) hA hU)
  · exact (checksFirst_of_mem_hsdt hr hl hd hi).refused
      (checkAlign_refuses_hw (not_aligned_half ha) hA hU)

/-! ### The multiple transfers and the swap -/

theorem exec_ldm (b : BlockMode) (c : Cond) (w : Bool) (n : RegNum) (l : BitVec 16) (s : State) :
    exec (Claims.ldm b c w n l) s = s.whenPassed c fun m => s.ldm m b w n l := by cases b <;> rfl

theorem exec_ldmRet (b : BlockMode) (c : Cond) (w : Bool) (n : RegNum) (l : BitVec 16) (s : State) :
    exec (ldmRet b c w n l) s = s.whenPassed c fun m => s.ldmReturn m b w n l := by cases b <;> rfl

theorem exec_ldmUsr (b : BlockMode) (c : Cond) (n : RegNum) (l : BitVec 16) (s : State) :
    exec (ldmUsr b c n l) s = s.whenPassed c fun m => s.ldmUser m b n l := by cases b <;> rfl

theorem exec_stm (b : BlockMode) (c : Cond) (w : Bool) (n : RegNum) (l : BitVec 16) (s : State) :
    exec (Claims.stm b c w n l) s = s.whenPassed c fun m => s.stm m b w n l := by cases b <;> rfl

theorem exec_stmUsr (b : BlockMode) (c : Cond) (n : RegNum) (l : BitVec 16) (s : State) :
    exec (stmUsr b c n l) s = s.whenPassed c fun m => s.stmUser m b n l := by cases b <;> rfl

theorem exec_swp (c : Cond) (n d r : RegNum) (s : State) :
    exec (.swp c n d r) s = s.whenPassed c fun m => s.swap m .word n d r := rfl

/-- An instruction whose body aborts takes the Data Abort with nothing done. -/
theorem dataAborts_of_body {i : Instr} {s : State} {m : Mode} {c : Cond} {cause : AbortCause}
    {a : Word} {body : Mode → Res State} (hr : Runs s m c) (he : exec i s = s.whenPassed c body)
    (hb : body m = .abort ⟨cause, a⟩) : ∃ t, exec i s = .next t ∧ DataAborts s t cause a := by
  rw [he, State.whenPassed_of_passed hr.mode hr.passed, hb]
  exact ⟨_, rfl, dataAborts_enterDataAbort s ⟨cause, a⟩⟩

theorem loadBlock_abort_of_checkBlock {s : State} {m bank : Mode} {b : BlockMode} {w : Bool}
    {n : RegNum} {l : BitVec 16} {finish : State → Option Word → Res State} {i : AbortInfo}
    (h : s.checkBlock true b w n l (s.readReg m n) = .abort i) :
    s.loadBlock m bank b w n l finish = .abort i :=
  Res.bind_abort.mpr (.inl h)

theorem storeBlock_abort_of_checkBlock {s : State} {m bank : Mode} {b : BlockMode} {w : Bool}
    {n : RegNum} {l : BitVec 16} {i : AbortInfo}
    (h : s.checkBlock false b w n l (s.readReg m n) = .abort i) :
    s.storeBlock m bank b w n l = .abort i :=
  Res.bind_abort.mpr (.inl h)

/-- A multiple transfer of any form aborts where its checks do. -/
theorem block_aborts {s : State} {m : Mode} {c : Cond} {k : Block} {b : BlockMode} {n : RegNum}
    {l : BitVec 16} {cause : AbortCause} {a : Word} (hr : Runs s m c) (hk : k.Admits s m l)
    (h : s.checkBlock k.isLoad b k.writesBack n l (s.readReg m n) = .abort ⟨cause, a⟩) :
    ∃ t, exec (k.instr b c n l) s = .next t ∧ DataAborts s t cause a := by
  cases k with
  | ldm w => exact dataAborts_of_body hr (exec_ldm ..) (loadBlock_abort_of_checkBlock h)
  | ldmRet w =>
    obtain ⟨hs, -⟩ := hk
    refine dataAborts_of_body hr (exec_ldmRet ..) ?_
    rw [State.ldmReturn, if_neg hs]
    exact loadBlock_abort_of_checkBlock h
  | ldmUsr =>
    obtain ⟨hs, hl⟩ := hk
    refine dataAborts_of_body hr (exec_ldmUsr ..) ?_
    rw [State.ldmUser, if_neg (Bool.eq_false_iff.mp hl), if_neg hs]
    exact loadBlock_abort_of_checkBlock h
  | stm w => exact dataAborts_of_body hr (exec_stm ..) (storeBlock_abort_of_checkBlock h)
  | stmUsr =>
    obtain ⟨hs, hl⟩ := hk
    refine dataAborts_of_body hr (exec_stmUsr ..) ?_
    rw [State.stmUser, if_neg (Bool.eq_false_iff.mp hl), if_neg hs]
    exact storeBlock_abort_of_checkBlock h

/-- A swap whose operands are admitted aborts at an unaligned address with A = 1 (R59). -/
theorem swap_aborts {s : State} {m : Mode} {w : Width} {n d r : RegNum}
    (hop : ¬(n = 15 ∨ d = 15 ∨ r = 15 ∨ n = r ∨ n = d))
    (ha : aligned (s.readReg m n) w = false) (hA : s.alignFlag = true) :
    s.swap m w n d r = .abort ⟨.alignment, s.readReg m n⟩ := by
  simp only [State.swap, if_neg hop, ha, hA, Bool.not_false, if_true]

/-- Settles O35: the single transfers abort at the rules of `checkAlign`, the multiple ones at their
checks and the swap at its own. -/
theorem alignmentFaults : Obligations.AlignmentFaults := by
  intro s m c n d hr hA
  refine ⟨fun x hl ha i hi => ?_, fun x hl hd ha i hi => ?_, fun x hl hd ha i hi => ?_,
    fun k b l hk hne hn hbase ha => ?_, fun r hn hd hr15 hnr hnd ha => ?_⟩
  · exact (checksFirst_of_mem_sdt hr hl hi).aborts (not_aligned_word ha) hA
  · exact (checksFirst_of_mem_sdtT hr hl hd hi).aborts (not_aligned_word ha) hA
  · exact (checksFirst_of_mem_hsdt hr hl hd hi).aborts (not_aligned_half ha) hA
  · exact block_aborts hr hk (State.checkBlock_abort.mpr
      ⟨hne, hn, (baseListed_iff ..).mpr hbase, not_aligned_word ha, hA, rfl⟩)
  · have hop : ¬(n = 15 ∨ d = 15 ∨ r = 15 ∨ n = r ∨ n = d) := by
      simp only [not_or]
      exact ⟨hn, hd, hr15, hnr, hnd⟩
    exact dataAborts_of_body hr (exec_swp ..) (swap_aborts hop (not_aligned_word ha) hA)

end Sys2Proof.Machine
end

section
/-! ## Conditions (spec 30_encoding.md R82, 10_state.md R24) -/

namespace Sys2Proof.Machine

open Sys2Proof.Claims

/-- Settles O20: `condHolds` has the fifteen rows of the table; its comparisons of N and V are
Boolean ones. -/
theorem conditionTable : Obligations.ConditionTable := by
  intro p
  have heq : (psrN p == psrV p) = decide (psrN p = psrV p) := Bool.beq_eq_decide_eq ..
  have hne : (psrN p != psrV p) = decide (psrN p ≠ psrV p) := by simp [bne, heq]
  exact ⟨rfl, rfl, rfl, rfl, rfl, rfl, rfl, rfl, rfl, rfl, heq, hne,
    congrArg (!psrZ p && ·) heq, congrArg (psrZ p || ·) hne, rfl⟩

/-- Every instruction of the configuration is executed under its own condition (R9, R82). -/
theorem exec_eq_whenPassed {i : Instr} {s : State}
    (hclz : ∀ c d r, i = .clz c d r → s.params.hasClz = true) :
    ∃ body, exec i s = s.whenPassed (condOf i) body := by
  cases i with
  | clz c d r => exact ⟨_, (exec_clz ..).trans (if_pos (hclz c d r rfl))⟩
  | _ => exact ⟨_, rfl⟩

/-- The condition failed, in a mode: only the pc advances. -/
theorem State.whenPassed_of_failed {s : State} {c : Cond} {m : Mode} {body : Mode → Res State}
    (hm : s.mode? = some m) (hc : s.condPassed c = false) :
    s.whenPassed c body = s.conclude s.advance := by
  simp [whenPassed, hm, hc]

theorem State.advance_of_ne {s : State} (h : s.pc ≠ 0xFFFFFFFC) :
    s.advance = .ok (s.setPc (s.pc + 4)) := if_neg h

theorem State.advance_of_eq {s : State} (h : s.pc = 0xFFFFFFFC) :
    s.advance = .refuse .addressWrap := if_pos h

/-- Settles O21: the body of the instruction is not reached, and the pc advances by the rule of
R24. -/
theorem failedConditionOnlyAdvances : Obligations.FailedConditionOnlyAdvances := by
  intro i s m hm hc hclz
  obtain ⟨body, he⟩ := exec_eq_whenPassed hclz
  rw [he, State.whenPassed_of_failed hm hc]
  refine ⟨fun hpc => ?_, fun hpc => ?_⟩
  · rw [State.advance_of_ne hpc]
    rfl
  · rw [State.advance_of_eq hpc]
    rfl

end Sys2Proof.Machine
end

section
/-! ## Shifted register offsets (spec 30_encoding.md R85) -/

namespace Sys2Proof.Machine

/-- A rotation by an amount below the width, as two shifts. -/
theorem rotateRight_eq_shifts (v : Word) (amt : BitVec 5) :
    v.rotateRight amt.toNat = (v >>> amt.toNat ||| v <<< (32 - amt.toNat)) := by
  have h : amt.toNat < 32 := amt.isLt
  rw [BitVec.rotateRight_eq_rotateRightAux_of_lt h, BitVec.rotateRightAux]

/-- Settles O23: amount 0 has a value of its own for each kind of shift, and ROR is a rotation. -/
theorem shiftTable : Obligations.ShiftTable := by
  intro carry v amt
  refine ⟨BitVec.shiftLeft_zero .., rfl, rfl, rfl, fun h => ?_⟩
  exact ⟨rfl, if_neg h, if_neg h, (if_neg h).trans (rotateRight_eq_shifts v amt)⟩

end Sys2Proof.Machine
end

section
/-! ## Refused register combinations of the single transfers (spec 30_encoding.md R98) -/

namespace Sys2Proof.Claims

open Sys2Proof.Machine

/-- The operands that `Denotes.predictable` rules out are those the machine refuses. -/
theorem Denotes.unpredictable {o : MemOperand} {f : Form} {s : State} {m : Mode} {n d : RegNum}
    {p : Bool} (h : Denotes o f s m n) (hbad : ¬ f.Legal n d ∨ (d = 15 ∧ p = false)) :
    o.unpredictable d p = true := by
  rw [← Bool.not_eq_false, h.predictable]
  rintro ⟨hl, hd⟩
  rcases hbad with hnl | ⟨h15, hp⟩
  · exact hnl hl
  · exact Bool.false_ne_true (hp.symm.trans (hd h15))

/-- An instruction that is executed is refused when its body is. -/
theorem refused_of_body {i : Instr} {s : State} {m : Mode} {c : Cond} {r : Refusal}
    {body : Mode → Res State} (hr : Runs s m c) (he : exec i s = s.whenPassed c body)
    (hb : body m = .refuse r) : exec i s = .refused r := by
  rw [he, State.whenPassed_of_passed hr.mode hr.passed, hb, State.conclude_refuse]

section
variable {i : Instr} {o : MemOperand} {f : Form} {s : State} {m : Mode} {c : Cond} {n d : RegNum}
  {uv p : Bool}

/-- A single load looks at its operands before anything else. -/
theorem load_refused {k : LoadKind} (h : Denotes o f s m n) (hr : Runs s m c)
    (hbad : ¬ f.Legal n d ∨ (d = 15 ∧ p = false))
    (he : exec i s = s.whenPassed c fun m => s.loadSingle m k uv o d p) :
    exec i s = .refused .unpredictableOperands :=
  refused_of_body hr he (if_pos (h.unpredictable hbad))

/-- A single store looks at its operands before anything else. -/
theorem store_refused {w : Width} (h : Denotes o f s m n) (hr : Runs s m c)
    (hbad : ¬ f.Legal n d ∨ (d = 15 ∧ p = false))
    (he : exec i s = s.whenPassed c fun m => s.storeSingle m w uv o d p) :
    exec i s = .refused .unpredictableOperands :=
  refused_of_body hr he (if_pos (h.unpredictable hbad))

end

/-- Settles O39: only LDR and STR are executed with `pcAdmitted`. -/
theorem singleTransferOperandsRefused : Obligations.SingleTransferOperandsRefused := by
  intro s m c n d hr
  refine ⟨fun x hbad i hi => ?_, fun x hbad i hi => ?_, fun x hbad i hi => ?_,
    fun x hbad i hi => ?_⟩
  all_goals
    have hx := x.denotes s m n
    simp only [List.mem_cons, List.not_mem_nil, or_false] at hi
  · rcases hi with rfl | rfl
    · exact load_refused hx hr (.inl hbad) (exec_ldr ..)
    · exact store_refused hx hr (.inl hbad) (exec_str ..)
  · have hbad := hbad.imp_right fun h15 => And.intro h15 (Eq.refl false)
    rcases hi with rfl | rfl
    · exact load_refused hx hr hbad (exec_ldrb ..)
    · exact store_refused hx hr hbad (exec_strb ..)
  · have hbad := hbad.imp_right fun h15 => And.intro h15 (Eq.refl false)
    rcases hi with rfl | rfl | rfl | rfl
    · exact load_refused hx hr hbad (exec_ldrt ..)
    · exact store_refused hx hr hbad (exec_strt ..)
    · exact load_refused hx hr hbad (exec_ldrbt ..)
    · exact store_refused hx hr hbad (exec_strbt ..)
  · have hbad := hbad.imp_right fun h15 => And.intro h15 (Eq.refl false)
    rcases hi with rfl | rfl | rfl | rfl
    · exact load_refused hx hr hbad (exec_ldrh ..)
    · exact store_refused hx hr hbad (exec_strh ..)
    · exact load_refused hx hr hbad (exec_ldrsb ..)
    · exact load_refused hx hr hbad (exec_ldrsh ..)

end Sys2Proof.Claims
end

section
/-! ## Words by format (spec 30_encoding.md R83 to R94) -/

namespace Sys2Proof

/-- The fields of an instruction word below its condition, format by format; SWP and CPRT, which
have two rows each, are written out. -/
inductive Layout where
  | sdtImm (p u b w l : Bool) (n d : RegNum) (imm : BitVec 12)
  | sdtReg (p u b w l : Bool) (n d : RegNum) (amt : BitVec 5) (sh : ShiftKind) (m : RegNum)
  | hsdtImm (p u w l s h : Bool) (n d : RegNum) (imm : BitVec 8)
  | hsdtReg (p u w l s h : Bool) (n d m : RegNum)
  | bdt (p u s w l : Bool) (n : RegNum) (list : BitVec 16)
  | swi (imm : BitVec 24)
  | swp (n d m : RegNum)
  | swpb (n d m : RegNum)
  | clz (d m : RegNum)
  | mrc (crn : BitVec 4) (d : RegNum) (op2 : BitVec 3) (crm : BitVec 4)
  | mcr (crn : BitVec 4) (d : RegNum) (op2 : BitVec 3) (crm : BitVec 4)

namespace Layout

/-- The word with a condition and these fields, by the encoder of the format. -/
def word (c : Cond) : Layout → Word
  | sdtImm p u b w l n d imm => encodeSdtImm c p u b w l n d imm
  | sdtReg p u b w l n d amt sh m => encodeSdtReg c p u b w l n d amt sh m
  | hsdtImm p u w l s h n d imm => encodeHsdtImm c p u w l s h n d imm
  | hsdtReg p u w l s h n d m => encodeHsdtReg c p u w l s h n d m
  | bdt p u s w l n list => encodeBdt c p u s w l n list
  | swi imm => encode (.swi c imm)
  | swp n d m => encode (.swp c n d m)
  | swpb n d m => encode (.swpb c n d m)
  | clz d m => encode (.clz c d m)
  | mrc crn d op2 crm => encode (.mrc c crn d op2 crm)
  | mcr crn d op2 crm => encode (.mcr c crn d op2 crm)

/-- The instruction with these fields; none where the combination is not admitted (R97). -/
def instr (c : Cond) : Layout → Option Instr
  | sdtImm p u b w l n d imm =>
    match p, b, w, l with
    | true, false, w, true => some (.ldrImmPre c u w n d imm)
    | true, false, w, false => some (.strImmPre c u w n d imm)
    | true, true, w, true => some (.ldrbImmPre c u w n d imm)
    | true, true, w, false => some (.strbImmPre c u w n d imm)
    | false, false, false, true => some (.ldrImmPost c u n d imm)
    | false, false, false, false => some (.strImmPost c u n d imm)
    | false, true, false, true => some (.ldrbImmPost c u n d imm)
    | false, true, false, false => some (.strbImmPost c u n d imm)
    | false, false, true, true => some (.ldrtImm c u n d imm)
    | false, false, true, false => some (.strtImm c u n d imm)
    | false, true, true, true => some (.ldrbtImm c u n d imm)
    | false, true, true, false => some (.strbtImm c u n d imm)
  | sdtReg p u b w l n d amt sh m =>
    match p, b, w, l with
    | true, false, w, true => some (.ldrRegPre c u w n d amt sh m)
    | true, false, w, false => some (.strRegPre c u w n d amt sh m)
    | true, true, w, true => some (.ldrbRegPre c u w n d amt sh m)
    | true, true, w, false => some (.strbRegPre c u w n d amt sh m)
    | false, false, false, true => some (.ldrRegPost c u n d amt sh m)
    | false, false, false, false => some (.strRegPost c u n d amt sh m)
    | false, true, false, true => some (.ldrbRegPost c u n d amt sh m)
    | false, true, false, false => some (.strbRegPost c u n d amt sh m)
    | false, false, true, true => some (.ldrtReg c u n d amt sh m)
    | false, false, true, false => some (.strtReg c u n d amt sh m)
    | false, true, true, true => some (.ldrbtReg c u n d amt sh m)
    | false, true, true, false => some (.strbtReg c u n d amt sh m)
  | hsdtImm p u w l s h n d imm =>
    match l, s, h, p, w with
    | true, false, true, true, w => some (.ldrhImmPre c u w n d imm)
    | true, true, false, true, w => some (.ldrsbImmPre c u w n d imm)
    | true, true, true, true, w => some (.ldrshImmPre c u w n d imm)
    | false, false, true, true, w => some (.strhImmPre c u w n d imm)
    | true, false, true, false, false => some (.ldrhImmPost c u n d imm)
    | true, true, false, false, false => some (.ldrsbImmPost c u n d imm)
    | true, true, true, false, false => some (.ldrshImmPost c u n d imm)
    | false, false, true, false, false => some (.strhImmPost c u n d imm)
    | _, _, _, _, _ => none
  | hsdtReg p u w l s h n d m =>
    match l, s, h, p, w with
    | true, false, true, true, w => some (.ldrhRegPre c u w n d m)
    | true, true, false, true, w => some (.ldrsbRegPre c u w n d m)
    | true, true, true, true, w => some (.ldrshRegPre c u w n d m)
    | false, false, true, true, w => some (.strhRegPre c u w n d m)
    | true, false, true, false, false => some (.ldrhRegPost c u n d m)
    | true, true, false, false, false => some (.ldrsbRegPost c u n d m)
    | true, true, true, false, false => some (.ldrshRegPost c u n d m)
    | false, false, true, false, false => some (.strhRegPost c u n d m)
    | _, _, _, _, _ => none
  | bdt p u s w l n list =>
    match s, l, p, u with
    | false, true, false, true => some (.ldmia c w n list)
    | false, true, true, true => some (.ldmib c w n list)
    | false, true, false, false => some (.ldmda c w n list)
    | false, true, true, false => some (.ldmdb c w n list)
    | false, false, false, true => some (.stmia c w n list)
    | false, false, true, true => some (.stmib c w n list)
    | false, false, false, false => some (.stmda c w n list)
    | false, false, true, false => some (.stmdb c w n list)
    | true, l, p, u =>
      match list.getLsbD 15, w, l, p, u with
      | true, w, true, false, true => some (.ldmiaRet c w n list)
      | true, w, true, true, true => some (.ldmibRet c w n list)
      | true, w, true, false, false => some (.ldmdaRet c w n list)
      | true, w, true, true, false => some (.ldmdbRet c w n list)
      | false, false, true, false, true => some (.ldmiaUsr c n list)
      | false, false, true, true, true => some (.ldmibUsr c n list)
      | false, false, true, false, false => some (.ldmdaUsr c n list)
      | false, false, true, true, false => some (.ldmdbUsr c n list)
      | false, false, false, false, true => some (.stmiaUsr c n list)
      | false, false, false, true, true => some (.stmibUsr c n list)
      | false, false, false, false, false => some (.stmdaUsr c n list)
      | false, false, false, true, false => some (.stmdbUsr c n list)
      | _, _, _, _, _ => none
  | swi imm => some (.swi c imm)
  | swp n d m => some (.swp c n d m)
  | swpb n d m => some (.swpb c n d m)
  | clz d m => some (.clz c d m)
  | mrc crn d op2 crm => some (.mrc c crn d op2 crm)
  | mcr crn d op2 crm => some (.mcr c crn d op2 crm)

end Layout

/-! ### The decoders of the formats read the fields -/

theorem decodeSdtImm_eq (c : Cond) (x : Word) :
    decodeSdtImm c x = (Layout.sdtImm (x.getLsbD 24) (x.getLsbD 23) (x.getLsbD 22) (x.getLsbD 21)
      (x.getLsbD 20) (fieldOf x 16 4) (fieldOf x 12 4) (fieldOf x 0 12)).instr c := rfl

theorem decodeSdtReg_eq (c : Cond) (x : Word) (h4 : x.getLsbD 4 = false) :
    decodeSdtReg c x = (Layout.sdtReg (x.getLsbD 24) (x.getLsbD 23) (x.getLsbD 22) (x.getLsbD 21)
      (x.getLsbD 20) (fieldOf x 16 4) (fieldOf x 12 4) (fieldOf x 7 5)
      (ShiftKind.ofBits (fieldOf x 5 2)) (fieldOf x 0 4)).instr c := by
  simp only [decodeSdtReg, h4, Layout.instr]
  cases x.getLsbD 24 <;> cases x.getLsbD 22 <;> cases x.getLsbD 21 <;> cases x.getLsbD 20 <;> rfl

theorem decodeHsdtImm_eq (c : Cond) (x : Word) :
    decodeHsdtImm c x = (Layout.hsdtImm (x.getLsbD 24) (x.getLsbD 23) (x.getLsbD 21) (x.getLsbD 20)
      (x.getLsbD 6) (x.getLsbD 5) (fieldOf x 16 4) (fieldOf x 12 4)
      (fieldOf x 8 4 ++ fieldOf x 0 4)).instr c := rfl

theorem decodeHsdtReg_eq (c : Cond) (x : Word) (h8 : fieldOf x 8 4 = 0) :
    decodeHsdtReg c x = (Layout.hsdtReg (x.getLsbD 24) (x.getLsbD 23) (x.getLsbD 21) (x.getLsbD 20)
      (x.getLsbD 6) (x.getLsbD 5) (fieldOf x 16 4) (fieldOf x 12 4) (fieldOf x 0 4)).instr c :=
  if_pos h8

/-- A bit of a word is a bit of a field that covers it. -/
theorem getLsbD_fieldOf (x : Word) (lo len k : Nat) (h : k < len) :
    (fieldOf x lo len).getLsbD k = x.getLsbD (lo + k) := by
  simp [fieldOf, h]

theorem decodeBdt_eq (c : Cond) (x : Word) :
    decodeBdt c x = (Layout.bdt (x.getLsbD 24) (x.getLsbD 23) (x.getLsbD 22) (x.getLsbD 21)
      (x.getLsbD 20) (fieldOf x 16 4) (fieldOf x 0 16)).instr c := by
  simp only [Layout.instr, getLsbD_fieldOf x 0 16 15 (by decide)]
  rfl

/-! ### Decoding the word of a layout -/

/-- Bits 6:5 of the half-word formats are zero only where the word is a swap (R87, R92). -/
theorem halfBits_ne_zero {s h : Bool} (hsh : (s || h) = true) :
    BitVec.ofBool s ++ BitVec.ofBool h ≠ 0#2 := by
  revert hsh
  cases s <;> cases h <;> decide

/-- A half-word layout is admitted only with S or H set. -/
theorem Layout.hsdtImm_sh {c : Cond} {p u w l s h : Bool} {n d : RegNum} {imm : BitVec 8}
    {i : Instr} (hi : (Layout.hsdtImm p u w l s h n d imm).instr c = some i) : (s || h) = true := by
  cases s <;> cases h
  case false.false => cases l <;> cases hi
  all_goals rfl

theorem Layout.hsdtReg_sh {c : Cond} {p u w l s h : Bool} {n d m : RegNum} {i : Instr}
    (hi : (Layout.hsdtReg p u w l s h n d m).instr c = some i) : (s || h) = true := by
  cases s <;> cases h
  case false.false => cases l <;> cases hi
  all_goals rfl

/-- Decoding the word of an admitted layout gives its instruction. -/
theorem decodeBody_word {c : Cond} {f : Layout} {i : Instr} (hi : f.instr c = some i) :
    decodeBody c (f.word c) = some i := by
  rw [← hi]
  cases f with
  | sdtImm p u b w l n d imm =>
    simp only [Layout.word, decodeBody, sdtImm_bit27, sdtImm_bit26, sdtImm_bit25, decodeSdtImm_eq,
      sdtImm_bit24, sdtImm_bit23, sdtImm_bit22, sdtImm_bit21, sdtImm_bit20, sdtImm_field16,
      sdtImm_field12, sdtImm_field0]
  | sdtReg p u b w l n d amt sh m =>
    simp only [Layout.word, decodeBody, sdtReg_bit27, sdtReg_bit26, sdtReg_bit25,
      decodeSdtReg_eq _ _ (sdtReg_bit4 ..), sdtReg_bit24, sdtReg_bit23, sdtReg_bit22, sdtReg_bit21,
      sdtReg_bit20, sdtReg_field16, sdtReg_field12, sdtReg_field7, sdtReg_field5,
      ShiftKind.ofBits_bits, sdtReg_field0]
  | hsdtImm p u w l s h n d imm =>
    simp only [Layout.word, decodeBody, hsdtImm_bit27, hsdtImm_bit26, hsdtImm_bit25, hsdtImm_bit7,
      hsdtImm_bit4, hsdtImm_field5, hsdtImm_bit22,
      decodeHsdtImm_eq, hsdtImm_bit24, hsdtImm_bit23, hsdtImm_bit21, hsdtImm_bit20, hsdtImm_bit6,
      hsdtImm_bit5, hsdtImm_field16, hsdtImm_field12, hsdtImm_field8, hsdtImm_field0,
      halves_of_byte]
    exact if_neg (halfBits_ne_zero (Layout.hsdtImm_sh hi))
  | hsdtReg p u w l s h n d m =>
    simp only [Layout.word, decodeBody, hsdtReg_bit27, hsdtReg_bit26, hsdtReg_bit25, hsdtReg_bit7,
      hsdtReg_bit4, hsdtReg_field5, hsdtReg_bit22,
      decodeHsdtReg_eq _ _ (hsdtReg_field8 ..), hsdtReg_bit24, hsdtReg_bit23, hsdtReg_bit21,
      hsdtReg_bit20, hsdtReg_bit6, hsdtReg_bit5, hsdtReg_field16, hsdtReg_field12, hsdtReg_field0]
    exact if_neg (halfBits_ne_zero (Layout.hsdtReg_sh hi))
  | bdt p u s w l n list =>
    simp only [Layout.word, decodeBody, bdt_bit27, bdt_bit26, bdt_bit25, decodeBdt_eq, bdt_bit24,
      bdt_bit23, bdt_bit22, bdt_bit21, bdt_bit20, bdt_field16, bdt_field0]
  | swi imm =>
    simp only [Layout.word, decodeBody, swi_bit27, swi_bit26, swi_bit25, swi_bit24, swi_field0,
      Layout.instr]
  | swp n d m =>
    simp only [Layout.word, decodeBody, swp_bit27, swp_bit26, swp_bit25, swp_bit7, swp_bit4,
      swp_field5, decodeSwap, swp_field23, swp_field20, swp_field8, swp_bit22, swp_field16,
      swp_field12, swp_field0, Layout.instr]
    rfl
  | swpb n d m =>
    simp only [Layout.word, decodeBody, swpb_bit27, swpb_bit26, swpb_bit25, swpb_bit7, swpb_bit4,
      swpb_field5, decodeSwap, swpb_field23, swpb_field20, swpb_field8, swpb_bit22, swpb_field16,
      swpb_field12, swpb_field0, Layout.instr]
    rfl
  | clz d m =>
    simp only [Layout.word, decodeBody, clz_bit27, clz_bit26, clz_bit25, clz_bit7, clz_bit4,
      decodeClz, clz_field16, clz_field4, clz_field12, clz_field0, Layout.instr]
    rfl
  | mrc crn d op2 crm =>
    simp only [Layout.word, decodeBody, mrc_bit27, mrc_bit26, mrc_bit25, mrc_bit24, decodeCprt,
      mrc_field21, mrc_field8, mrc_bit4, mrc_bit20, mrc_field16, mrc_field12, mrc_field5,
      mrc_field0, Layout.instr]
    rfl
  | mcr crn d op2 crm =>
    simp only [Layout.word, decodeBody, mcr_bit27, mcr_bit26, mcr_bit25, mcr_bit24, decodeCprt,
      mcr_field21, mcr_field8, mcr_bit4, mcr_bit20, mcr_field16, mcr_field12, mcr_field5,
      mcr_field0, Layout.instr]
    rfl

/-- The instruction of an admitted layout is well-formed, and its word is the word of the layout. -/
theorem encode_of_instr {c : Cond} {f : Layout} {i : Instr} (hi : f.instr c = some i) :
    i.wellFormed = true ∧ encode i = f.word c := by
  cases f with
  | sdtImm | sdtReg | hsdtImm | hsdtReg =>
    simp only [Layout.instr] at hi
    split at hi <;> cases hi <;> exact ⟨rfl, rfl⟩
  | bdt p u s w l n list =>
    simp only [Layout.instr] at hi
    split at hi
    case h_9 =>
      split at hi
      case h_13 => cases hi
      all_goals
        next hlist => cases hi; exact ⟨by simp only [Instr.wellFormed, hlist, Bool.not_false], rfl⟩
    all_goals cases hi; exact ⟨rfl, rfl⟩
  | _ => cases hi; exact ⟨rfl, rfl⟩

/-! ### Words that have the bits of a row -/

/-- The bits that the row of an admitted layout looks at (R96). -/
def Layout.mask : Layout → Word
  | sdtImm p _ _ _ _ _ _ _ => if p then 0x0F500000 else 0x0F700000
  | sdtReg p _ _ _ _ _ _ _ _ _ => if p then 0x0F500010 else 0x0F700010
  | hsdtImm p _ _ _ _ _ _ _ _ => if p then 0x0F5000F0 else 0x0F7000F0
  | hsdtReg p _ _ _ _ _ _ _ _ => if p then 0x0F500FF0 else 0x0F700FF0
  | bdt _ _ s _ _ _ list =>
    if s then (if list.getLsbD 15 then 0x0FD08000 else 0x0FF08000) else 0x0FD00000
  | swi _ => 0x0F000000
  | swp _ _ _ => 0x0FF00FF0
  | swpb _ _ _ => 0x0FF00FF0
  | clz _ _ => 0x0FFF0FF0
  | mrc _ _ _ _ => 0x0FF00F10
  | mcr _ _ _ _ => 0x0FF00F10

theorem Layout.row_mask {c : Cond} {f : Layout} {i : Instr} (hi : f.instr c = some i) :
    i.row.1 = f.mask := by
  cases f with
  | sdtImm | sdtReg | hsdtImm | hsdtReg =>
    simp only [instr] at hi
    split at hi <;> cases hi <;> rfl
  | bdt =>
    simp only [instr] at hi
    split at hi
    case h_9 =>
      split at hi
      case h_13 => cases hi
      all_goals next hlist => cases hi; rw [mask, hlist]; rfl
    all_goals cases hi; rfl
  | _ => cases hi; rfl

/-- The word has the bits that the row of the layout asks for. -/
def Layout.Fits (f : Layout) (c : Cond) (x : Word) : Prop := x &&& f.mask = f.word c &&& f.mask

theorem Layout.Fits.bit {f : Layout} {c : Cond} {x m : Word} (hx : f.Fits c x) (hm : f.mask = m)
    (k : Nat) (hk : m.getLsbD k = true) : x.getLsbD k = (f.word c).getLsbD k := by
  subst hm
  have hbit := congrArg (BitVec.getLsbD · k) hx
  simpa only [BitVec.getLsbD_and, hk, Bool.and_true] using hbit

theorem Layout.Fits.field {f : Layout} {c : Cond} {x m : Word} (hx : f.Fits c x) (hm : f.mask = m)
    (lo len : Nat) (hl : fieldOf m lo len = BitVec.allOnes len) :
    fieldOf x lo len = fieldOf (f.word c) lo len := by
  subst hm
  have hfield := congrArg (fieldOf · lo len) hx
  unfold fieldOf at hfield hl ⊢
  simpa only [BitVec.extractLsb'_and, hl, BitVec.and_allOnes] using hfield

/-- The row of a layout of this format is fixed by P, B, L and, in the post-indexed form, W. -/
theorem sdtImm_sameRow {c c' : Cond} {p u u' b w w' l : Bool} {n d n' d' : RegNum}
    {imm imm' : BitVec 12} {i : Instr} (hi : (Layout.sdtImm p u b w l n d imm).instr c = some i)
    (hw : p = false → w' = w) :
    ∃ j, (Layout.sdtImm p u' b w' l n' d' imm').instr c' = some j ∧ j.row = i.row := by
  simp only [Layout.instr] at hi
  split at hi
  case h_1 | h_2 | h_3 | h_4 => cases hi; exact ⟨_, rfl, rfl⟩
  all_goals cases hi; obtain rfl := hw rfl; exact ⟨_, rfl, rfl⟩

theorem decodeBody_of_fits_sdtImm {c c' : Cond} {p u b w l : Bool} {n d : RegNum} {imm : BitVec 12}
    {i : Instr} {x : Word} (hi : (Layout.sdtImm p u b w l n d imm).instr c = some i)
    (hx : (Layout.sdtImm p u b w l n d imm).Fits c x) :
    ∃ j, decodeBody c' x = some j ∧ j.row = i.row := by
  have bit (k : Nat) (hk : k ∈ [27, 26, 25, 24, 22, 20]) :
      x.getLsbD k = (encodeSdtImm c p u b w l n d imm).getLsbD k := by
    refine hx.bit rfl k ?_
    rw [Layout.mask]
    revert k
    cases p <;> decide
  have bit21 (hp : p = false) : x.getLsbD 21 = w := by
    exact (hx.bit rfl 21 (by rw [Layout.mask, hp]; decide)).trans (sdtImm_bit21 ..)
  simp only [decodeBody, bit 27 (by decide), sdtImm_bit27, bit 26 (by decide), sdtImm_bit26,
    bit 25 (by decide), sdtImm_bit25, decodeSdtImm_eq, bit 24 (by decide), sdtImm_bit24,
    bit 22 (by decide), sdtImm_bit22, bit 20 (by decide), sdtImm_bit20]
  exact sdtImm_sameRow hi bit21

/-- The row of a layout of this format is fixed by P, B, L and, in the post-indexed form, W. -/
theorem sdtReg_sameRow {c c' : Cond} {p u u' b w w' l : Bool} {n d n' d' : RegNum}
    {amt amt' : BitVec 5} {sh sh' : ShiftKind} {m m' : RegNum} {i : Instr}
    (hi : (Layout.sdtReg p u b w l n d amt sh m).instr c = some i) (hw : p = false → w' = w) :
    ∃ j, (Layout.sdtReg p u' b w' l n' d' amt' sh' m').instr c' = some j ∧ j.row = i.row := by
  simp only [Layout.instr] at hi
  split at hi
  case h_1 | h_2 | h_3 | h_4 => cases hi; exact ⟨_, rfl, rfl⟩
  all_goals cases hi; obtain rfl := hw rfl; exact ⟨_, rfl, rfl⟩

theorem decodeBody_of_fits_sdtReg {c c' : Cond} {p u b w l : Bool} {n d : RegNum} {amt : BitVec 5}
    {sh : ShiftKind} {m : RegNum} {i : Instr} {x : Word}
    (hi : (Layout.sdtReg p u b w l n d amt sh m).instr c = some i)
    (hx : (Layout.sdtReg p u b w l n d amt sh m).Fits c x) :
    ∃ j, decodeBody c' x = some j ∧ j.row = i.row := by
  have bit (k : Nat) (hk : k ∈ [27, 26, 25, 24, 22, 20, 4]) :
      x.getLsbD k = (encodeSdtReg c p u b w l n d amt sh m).getLsbD k := by
    refine hx.bit rfl k ?_
    rw [Layout.mask]
    revert k
    cases p <;> decide
  have bit21 (hp : p = false) : x.getLsbD 21 = w := by
    exact (hx.bit rfl 21 (by rw [Layout.mask, hp]; decide)).trans (sdtReg_bit21 ..)
  have bit4 : x.getLsbD 4 = false := (bit 4 (by decide)).trans (sdtReg_bit4 ..)
  simp only [decodeBody, bit 27 (by decide), sdtReg_bit27, bit 26 (by decide), sdtReg_bit26,
    bit 25 (by decide), sdtReg_bit25, decodeSdtReg_eq _ _ bit4, bit 24 (by decide), sdtReg_bit24,
    bit 22 (by decide), sdtReg_bit22, bit 20 (by decide), sdtReg_bit20]
  exact sdtReg_sameRow hi bit21

/-- The row of a layout of this format is fixed by P, L, S, H and, in the post-indexed form, W. -/
theorem hsdtImm_sameRow {c c' : Cond} {p u u' w w' l s h : Bool} {n d n' d' : RegNum}
    {imm imm' : BitVec 8} {i : Instr}
    (hi : (Layout.hsdtImm p u w l s h n d imm).instr c = some i) (hw : p = false → w' = w) :
    ∃ j, (Layout.hsdtImm p u' w' l s h n' d' imm').instr c' = some j ∧ j.row = i.row := by
  simp only [Layout.instr] at hi
  split at hi
  case h_1 | h_2 | h_3 | h_4 => cases hi; exact ⟨_, rfl, rfl⟩
  case h_9 => cases hi
  all_goals cases hi; obtain rfl := hw rfl; exact ⟨_, rfl, rfl⟩

theorem decodeBody_of_fits_hsdtImm {c c' : Cond} {p u w l s h : Bool} {n d : RegNum}
    {imm : BitVec 8} {i : Instr} {x : Word}
    (hi : (Layout.hsdtImm p u w l s h n d imm).instr c = some i)
    (hx : (Layout.hsdtImm p u w l s h n d imm).Fits c x) :
    ∃ j, decodeBody c' x = some j ∧ j.row = i.row := by
  have bit (k : Nat) (hk : k ∈ [27, 26, 25, 24, 22, 20, 7, 6, 5, 4]) :
      x.getLsbD k = (encodeHsdtImm c p u w l s h n d imm).getLsbD k := by
    refine hx.bit rfl k ?_
    rw [Layout.mask]
    revert k
    cases p <;> decide
  have bit21 (hp : p = false) : x.getLsbD 21 = w := by
    exact (hx.bit rfl 21 (by rw [Layout.mask, hp]; decide)).trans (hsdtImm_bit21 ..)
  have field5 : fieldOf x 5 2 ≠ 0 := by
    rw [hx.field rfl 5 2 (by rw [Layout.mask]; cases p <;> decide)]
    exact (hsdtImm_field5 ..).trans_ne (halfBits_ne_zero (Layout.hsdtImm_sh hi))
  simp only [decodeBody, bit 27 (by decide), hsdtImm_bit27, bit 26 (by decide), hsdtImm_bit26,
    bit 25 (by decide), hsdtImm_bit25, bit 7 (by decide), hsdtImm_bit7, bit 4 (by decide),
    hsdtImm_bit4, field5, if_false, bit 22 (by decide), hsdtImm_bit22, decodeHsdtImm_eq,
    bit 24 (by decide), hsdtImm_bit24, bit 20 (by decide), hsdtImm_bit20, bit 6 (by decide),
    hsdtImm_bit6, bit 5 (by decide), hsdtImm_bit5]
  exact hsdtImm_sameRow hi bit21

/-- The row of a layout of this format is fixed by P, L, S, H and, in the post-indexed form, W. -/
theorem hsdtReg_sameRow {c c' : Cond} {p u u' w w' l s h : Bool} {n d m n' d' m' : RegNum}
    {i : Instr} (hi : (Layout.hsdtReg p u w l s h n d m).instr c = some i)
    (hw : p = false → w' = w) :
    ∃ j, (Layout.hsdtReg p u' w' l s h n' d' m').instr c' = some j ∧ j.row = i.row := by
  simp only [Layout.instr] at hi
  split at hi
  case h_1 | h_2 | h_3 | h_4 => cases hi; exact ⟨_, rfl, rfl⟩
  case h_9 => cases hi
  all_goals cases hi; obtain rfl := hw rfl; exact ⟨_, rfl, rfl⟩

theorem decodeBody_of_fits_hsdtReg {c c' : Cond} {p u w l s h : Bool} {n d m : RegNum} {i : Instr}
    {x : Word} (hi : (Layout.hsdtReg p u w l s h n d m).instr c = some i)
    (hx : (Layout.hsdtReg p u w l s h n d m).Fits c x) :
    ∃ j, decodeBody c' x = some j ∧ j.row = i.row := by
  have bit (k : Nat) (hk : k ∈ [27, 26, 25, 24, 22, 20, 7, 6, 5, 4]) :
      x.getLsbD k = (encodeHsdtReg c p u w l s h n d m).getLsbD k := by
    refine hx.bit rfl k ?_
    rw [Layout.mask]
    revert k
    cases p <;> decide
  have bit21 (hp : p = false) : x.getLsbD 21 = w := by
    exact (hx.bit rfl 21 (by rw [Layout.mask, hp]; decide)).trans (hsdtReg_bit21 ..)
  have field5 : fieldOf x 5 2 ≠ 0 := by
    rw [hx.field rfl 5 2 (by rw [Layout.mask]; cases p <;> decide)]
    exact (hsdtReg_field5 ..).trans_ne (halfBits_ne_zero (Layout.hsdtReg_sh hi))
  have field8 : fieldOf x 8 4 = 0 := by
    exact (hx.field rfl 8 4 (by rw [Layout.mask]; cases p <;> decide)).trans (hsdtReg_field8 ..)
  simp only [decodeBody, bit 27 (by decide), hsdtReg_bit27, bit 26 (by decide), hsdtReg_bit26,
    bit 25 (by decide), hsdtReg_bit25, bit 7 (by decide), hsdtReg_bit7, bit 4 (by decide),
    hsdtReg_bit4, field5, if_false, bit 22 (by decide), hsdtReg_bit22, decodeHsdtReg_eq _ _ field8,
    bit 24 (by decide), hsdtReg_bit24, bit 20 (by decide), hsdtReg_bit20, bit 6 (by decide),
    hsdtReg_bit6, bit 5 (by decide), hsdtReg_bit5]
  exact hsdtReg_sameRow hi bit21

/-- The row of a layout of this format is fixed by P, U, S, L and, where S is set, bit 15 of the
list and, where that is clear, W. -/
theorem bdt_sameRow {c c' : Cond} {p u s w w' l : Bool} {n n' : RegNum} {list list' : BitVec 16}
    {i : Instr} (hi : (Layout.bdt p u s w l n list).instr c = some i)
    (hlist : s = true → list'.getLsbD 15 = list.getLsbD 15)
    (hw : s = true → list.getLsbD 15 = false → w' = w) :
    ∃ j, (Layout.bdt p u s w' l n' list').instr c' = some j ∧ j.row = i.row := by
  simp only [Layout.instr] at hi
  split at hi
  case h_9 =>
    simp only [Layout.instr, hlist rfl]
    split at hi
    case h_1 | h_2 | h_3 | h_4 => next h15 => cases hi; rw [h15]; exact ⟨_, rfl, rfl⟩
    case h_13 => cases hi
    all_goals next h15 => cases hi; obtain rfl := hw rfl h15; rw [h15]; exact ⟨_, rfl, rfl⟩
  all_goals cases hi; exact ⟨_, rfl, rfl⟩

theorem decodeBody_of_fits_bdt {c c' : Cond} {p u s w l : Bool} {n : RegNum} {list : BitVec 16}
    {i : Instr} {x : Word} (hi : (Layout.bdt p u s w l n list).instr c = some i)
    (hx : (Layout.bdt p u s w l n list).Fits c x) :
    ∃ j, decodeBody c' x = some j ∧ j.row = i.row := by
  have bit (k : Nat) (hk : k ∈ [27, 26, 25, 24, 23, 22, 20]) :
      x.getLsbD k = (encodeBdt c p u s w l n list).getLsbD k := by
    refine hx.bit rfl k ?_
    rw [Layout.mask]
    revert k
    cases s <;> cases list.getLsbD 15 <;> decide
  have bit15 (hs : s = true) : (fieldOf x 0 16).getLsbD 15 = list.getLsbD 15 := by
    have hm : (Layout.bdt p u s w l n list).mask.getLsbD 15 = true := by
      rw [Layout.mask, hs]
      cases list.getLsbD 15 <;> decide
    rw [getLsbD_fieldOf x 0 16 15 (by decide)]
    exact (hx.bit rfl 15 hm).trans (bdt_bit15 ..)
  have bit21 (hs : s = true) (h15 : list.getLsbD 15 = false) : x.getLsbD 21 = w := by
    exact (hx.bit rfl 21 (by rw [Layout.mask, hs, h15]; decide)).trans (bdt_bit21 ..)
  simp only [decodeBody, bit 27 (by decide), bdt_bit27, bit 26 (by decide), bdt_bit26,
    bit 25 (by decide), bdt_bit25, decodeBdt_eq, bit 24 (by decide), bdt_bit24,
    bit 23 (by decide), bdt_bit23, bit 22 (by decide), bdt_bit22, bit 20 (by decide), bdt_bit20]
  exact bdt_sameRow hi bit15 bit21

/-- A word that has the bits of the row of an admitted layout decodes to an instruction of the row.
-/
theorem decodeBody_of_fits {c c' : Cond} {f : Layout} {i : Instr} {x : Word}
    (hi : f.instr c = some i) (hx : f.Fits c x) :
    ∃ j, decodeBody c' x = some j ∧ j.row = i.row := by
  cases f with
  | sdtImm => exact decodeBody_of_fits_sdtImm hi hx
  | sdtReg => exact decodeBody_of_fits_sdtReg hi hx
  | hsdtImm => exact decodeBody_of_fits_hsdtImm hi hx
  | hsdtReg => exact decodeBody_of_fits_hsdtReg hi hx
  | bdt => exact decodeBody_of_fits_bdt hi hx
  | swi imm =>
    cases hi
    have bit := hx.bit (m := 0x0F000000) rfl
    simp only [decodeBody, bit 27 rfl, bit 26 rfl, bit 25 rfl,
      bit 24 rfl, Layout.word, swi_bit27, swi_bit26, swi_bit25, swi_bit24]
    exact ⟨_, rfl, rfl⟩
  | swp n d m =>
    cases hi
    have bit := hx.bit (m := 0x0FF00FF0) rfl
    have field := hx.field (m := 0x0FF00FF0) rfl
    simp only [decodeBody, bit 27 rfl, bit 26 rfl, bit 25 rfl,
      bit 7 rfl, bit 4 rfl, field 5 2 rfl, decodeSwap,
      field 23 2 rfl, field 20 2 rfl,
      field 8 4 rfl, bit 22 rfl, Layout.word, swp_bit27, swp_bit26,
      swp_bit25, swp_bit7, swp_bit4, swp_field5, swp_field23, swp_field20, swp_field8, swp_bit22]
    exact ⟨_, rfl, rfl⟩
  | swpb n d m =>
    cases hi
    have bit := hx.bit (m := 0x0FF00FF0) rfl
    have field := hx.field (m := 0x0FF00FF0) rfl
    simp only [decodeBody, bit 27 rfl, bit 26 rfl, bit 25 rfl,
      bit 7 rfl, bit 4 rfl, field 5 2 rfl, decodeSwap,
      field 23 2 rfl, field 20 2 rfl,
      field 8 4 rfl, bit 22 rfl, Layout.word, swpb_bit27, swpb_bit26,
      swpb_bit25, swpb_bit7, swpb_bit4, swpb_field5, swpb_field23, swpb_field20, swpb_field8,
      swpb_bit22]
    exact ⟨_, rfl, rfl⟩
  | clz d m =>
    cases hi
    have bit := hx.bit (m := 0x0FFF0FF0) rfl
    have field := hx.field (m := 0x0FFF0FF0) rfl
    simp only [decodeBody, bit 27 rfl, bit 26 rfl, bit 25 rfl,
      bit 7 rfl, bit 4 rfl, decodeClz, field 16 9 rfl,
      field 4 8 rfl, Layout.word, clz_bit27, clz_bit26, clz_bit25, clz_bit7,
      clz_bit4, clz_field16, clz_field4]
    exact ⟨_, rfl, rfl⟩
  | mrc crn d op2 crm =>
    cases hi
    have bit := hx.bit (m := 0x0FF00F10) rfl
    have field := hx.field (m := 0x0FF00F10) rfl
    simp only [decodeBody, bit 27 rfl, bit 26 rfl, bit 25 rfl,
      bit 24 rfl, decodeCprt, field 21 3 rfl,
      field 8 4 rfl, bit 4 rfl, bit 20 rfl, Layout.word,
      mrc_bit27, mrc_bit26, mrc_bit25, mrc_bit24, mrc_field21, mrc_field8, mrc_bit4, mrc_bit20]
    exact ⟨_, rfl, rfl⟩
  | mcr crn d op2 crm =>
    cases hi
    have bit := hx.bit (m := 0x0FF00F10) rfl
    have field := hx.field (m := 0x0FF00F10) rfl
    simp only [decodeBody, bit 27 rfl, bit 26 rfl, bit 25 rfl,
      bit 24 rfl, decodeCprt, field 21 3 rfl,
      field 8 4 rfl, bit 4 rfl, bit 20 rfl, Layout.word,
      mcr_bit27, mcr_bit26, mcr_bit25, mcr_bit24, mcr_field21, mcr_field8, mcr_bit4, mcr_bit20]
    exact ⟨_, rfl, rfl⟩

/-! ### Every well-formed instruction has a layout, every decoded word is the word of one -/

theorem Layout.exists_of_wellFormed {i : Instr} (hw : i.wellFormed = true) :
    ∃ c f, Layout.instr c f = some i := by
  cases i with
  | ldrImmPre c u w n d imm => exact ⟨c, .sdtImm true u false w true n d imm, rfl⟩
  | ldrImmPost c u n d imm => exact ⟨c, .sdtImm false u false false true n d imm, rfl⟩
  | ldrRegPre c u w n d amt sh m => exact ⟨c, .sdtReg true u false w true n d amt sh m, rfl⟩
  | ldrRegPost c u n d amt sh m => exact ⟨c, .sdtReg false u false false true n d amt sh m, rfl⟩
  | ldrtImm c u n d imm => exact ⟨c, .sdtImm false u false true true n d imm, rfl⟩
  | ldrtReg c u n d amt sh m => exact ⟨c, .sdtReg false u false true true n d amt sh m, rfl⟩
  | ldrbImmPre c u w n d imm => exact ⟨c, .sdtImm true u true w true n d imm, rfl⟩
  | ldrbImmPost c u n d imm => exact ⟨c, .sdtImm false u true false true n d imm, rfl⟩
  | ldrbRegPre c u w n d amt sh m => exact ⟨c, .sdtReg true u true w true n d amt sh m, rfl⟩
  | ldrbRegPost c u n d amt sh m => exact ⟨c, .sdtReg false u true false true n d amt sh m, rfl⟩
  | ldrbtImm c u n d imm => exact ⟨c, .sdtImm false u true true true n d imm, rfl⟩
  | ldrbtReg c u n d amt sh m => exact ⟨c, .sdtReg false u true true true n d amt sh m, rfl⟩
  | strImmPre c u w n d imm => exact ⟨c, .sdtImm true u false w false n d imm, rfl⟩
  | strImmPost c u n d imm => exact ⟨c, .sdtImm false u false false false n d imm, rfl⟩
  | strRegPre c u w n d amt sh m => exact ⟨c, .sdtReg true u false w false n d amt sh m, rfl⟩
  | strRegPost c u n d amt sh m => exact ⟨c, .sdtReg false u false false false n d amt sh m, rfl⟩
  | strtImm c u n d imm => exact ⟨c, .sdtImm false u false true false n d imm, rfl⟩
  | strtReg c u n d amt sh m => exact ⟨c, .sdtReg false u false true false n d amt sh m, rfl⟩
  | strbImmPre c u w n d imm => exact ⟨c, .sdtImm true u true w false n d imm, rfl⟩
  | strbImmPost c u n d imm => exact ⟨c, .sdtImm false u true false false n d imm, rfl⟩
  | strbRegPre c u w n d amt sh m => exact ⟨c, .sdtReg true u true w false n d amt sh m, rfl⟩
  | strbRegPost c u n d amt sh m => exact ⟨c, .sdtReg false u true false false n d amt sh m, rfl⟩
  | strbtImm c u n d imm => exact ⟨c, .sdtImm false u true true false n d imm, rfl⟩
  | strbtReg c u n d amt sh m => exact ⟨c, .sdtReg false u true true false n d amt sh m, rfl⟩
  | ldrhImmPre c u w n d imm => exact ⟨c, .hsdtImm true u w true false true n d imm, rfl⟩
  | ldrhImmPost c u n d imm => exact ⟨c, .hsdtImm false u false true false true n d imm, rfl⟩
  | ldrhRegPre c u w n d m => exact ⟨c, .hsdtReg true u w true false true n d m, rfl⟩
  | ldrhRegPost c u n d m => exact ⟨c, .hsdtReg false u false true false true n d m, rfl⟩
  | strhImmPre c u w n d imm => exact ⟨c, .hsdtImm true u w false false true n d imm, rfl⟩
  | strhImmPost c u n d imm => exact ⟨c, .hsdtImm false u false false false true n d imm, rfl⟩
  | strhRegPre c u w n d m => exact ⟨c, .hsdtReg true u w false false true n d m, rfl⟩
  | strhRegPost c u n d m => exact ⟨c, .hsdtReg false u false false false true n d m, rfl⟩
  | ldrsbImmPre c u w n d imm => exact ⟨c, .hsdtImm true u w true true false n d imm, rfl⟩
  | ldrsbImmPost c u n d imm => exact ⟨c, .hsdtImm false u false true true false n d imm, rfl⟩
  | ldrsbRegPre c u w n d m => exact ⟨c, .hsdtReg true u w true true false n d m, rfl⟩
  | ldrsbRegPost c u n d m => exact ⟨c, .hsdtReg false u false true true false n d m, rfl⟩
  | ldrshImmPre c u w n d imm => exact ⟨c, .hsdtImm true u w true true true n d imm, rfl⟩
  | ldrshImmPost c u n d imm => exact ⟨c, .hsdtImm false u false true true true n d imm, rfl⟩
  | ldrshRegPre c u w n d m => exact ⟨c, .hsdtReg true u w true true true n d m, rfl⟩
  | ldrshRegPost c u n d m => exact ⟨c, .hsdtReg false u false true true true n d m, rfl⟩
  | ldmia c w n list => exact ⟨c, .bdt false true false w true n list, rfl⟩
  | ldmib c w n list => exact ⟨c, .bdt true true false w true n list, rfl⟩
  | ldmda c w n list => exact ⟨c, .bdt false false false w true n list, rfl⟩
  | ldmdb c w n list => exact ⟨c, .bdt true false false w true n list, rfl⟩
  | stmia c w n list => exact ⟨c, .bdt false true false w false n list, rfl⟩
  | stmib c w n list => exact ⟨c, .bdt true true false w false n list, rfl⟩
  | stmda c w n list => exact ⟨c, .bdt false false false w false n list, rfl⟩
  | stmdb c w n list => exact ⟨c, .bdt true false false w false n list, rfl⟩
  | ldmiaRet c w n list =>
    exact ⟨c, .bdt false true true w true n list,
      by simp only [instr, show list.getLsbD 15 = true from hw]⟩
  | ldmibRet c w n list =>
    exact ⟨c, .bdt true true true w true n list,
      by simp only [instr, show list.getLsbD 15 = true from hw]⟩
  | ldmdaRet c w n list =>
    exact ⟨c, .bdt false false true w true n list,
      by simp only [instr, show list.getLsbD 15 = true from hw]⟩
  | ldmdbRet c w n list =>
    exact ⟨c, .bdt true false true w true n list,
      by simp only [instr, show list.getLsbD 15 = true from hw]⟩
  | ldmiaUsr c n list =>
    exact ⟨c, .bdt false true true false true n list,
      by simp only [instr, (Bool.not_eq_true' _).mp hw]⟩
  | ldmibUsr c n list =>
    exact ⟨c, .bdt true true true false true n list,
      by simp only [instr, (Bool.not_eq_true' _).mp hw]⟩
  | ldmdaUsr c n list =>
    exact ⟨c, .bdt false false true false true n list,
      by simp only [instr, (Bool.not_eq_true' _).mp hw]⟩
  | ldmdbUsr c n list =>
    exact ⟨c, .bdt true false true false true n list,
      by simp only [instr, (Bool.not_eq_true' _).mp hw]⟩
  | stmiaUsr c n list =>
    exact ⟨c, .bdt false true true false false n list,
      by simp only [instr, (Bool.not_eq_true' _).mp hw]⟩
  | stmibUsr c n list =>
    exact ⟨c, .bdt true true true false false n list,
      by simp only [instr, (Bool.not_eq_true' _).mp hw]⟩
  | stmdaUsr c n list =>
    exact ⟨c, .bdt false false true false false n list,
      by simp only [instr, (Bool.not_eq_true' _).mp hw]⟩
  | stmdbUsr c n list =>
    exact ⟨c, .bdt true false true false false n list,
      by simp only [instr, (Bool.not_eq_true' _).mp hw]⟩
  | swi c imm => exact ⟨c, .swi imm, rfl⟩
  | swp c n d m => exact ⟨c, .swp n d m, rfl⟩
  | swpb c n d m => exact ⟨c, .swpb n d m, rfl⟩
  | clz c d m => exact ⟨c, .clz d m, rfl⟩
  | mrc c crn d op2 crm => exact ⟨c, .mrc crn d op2 crm, rfl⟩
  | mcr c crn d op2 crm => exact ⟨c, .mcr crn d op2 crm, rfl⟩

section
open Laws.EncodeMatchesRow

/-- The word of a well-formed instruction matches the row of the instruction (R96). -/
theorem encode_matches_row (i : Instr) : Statement i := by
  cases i with
  | ldrImmPre => exact ldrImmPre _ _ _ _ _ _
  | ldrImmPost => exact ldrImmPost _ _ _ _ _
  | ldrRegPre => exact ldrRegPre _ _ _ _ _ _ _ _
  | ldrRegPost => exact ldrRegPost _ _ _ _ _ _ _
  | ldrtImm => exact ldrtImm _ _ _ _ _
  | ldrtReg => exact ldrtReg _ _ _ _ _ _ _
  | ldrbImmPre => exact ldrbImmPre _ _ _ _ _ _
  | ldrbImmPost => exact ldrbImmPost _ _ _ _ _
  | ldrbRegPre => exact ldrbRegPre _ _ _ _ _ _ _ _
  | ldrbRegPost => exact ldrbRegPost _ _ _ _ _ _ _
  | ldrbtImm => exact ldrbtImm _ _ _ _ _
  | ldrbtReg => exact ldrbtReg _ _ _ _ _ _ _
  | strImmPre => exact strImmPre _ _ _ _ _ _
  | strImmPost => exact strImmPost _ _ _ _ _
  | strRegPre => exact strRegPre _ _ _ _ _ _ _ _
  | strRegPost => exact strRegPost _ _ _ _ _ _ _
  | strtImm => exact strtImm _ _ _ _ _
  | strtReg => exact strtReg _ _ _ _ _ _ _
  | strbImmPre => exact strbImmPre _ _ _ _ _ _
  | strbImmPost => exact strbImmPost _ _ _ _ _
  | strbRegPre => exact strbRegPre _ _ _ _ _ _ _ _
  | strbRegPost => exact strbRegPost _ _ _ _ _ _ _
  | strbtImm => exact strbtImm _ _ _ _ _
  | strbtReg => exact strbtReg _ _ _ _ _ _ _
  | ldrhImmPre => exact ldrhImmPre _ _ _ _ _ _
  | ldrhImmPost => exact ldrhImmPost _ _ _ _ _
  | ldrhRegPre => exact ldrhRegPre _ _ _ _ _ _
  | ldrhRegPost => exact ldrhRegPost _ _ _ _ _
  | strhImmPre => exact strhImmPre _ _ _ _ _ _
  | strhImmPost => exact strhImmPost _ _ _ _ _
  | strhRegPre => exact strhRegPre _ _ _ _ _ _
  | strhRegPost => exact strhRegPost _ _ _ _ _
  | ldrsbImmPre => exact ldrsbImmPre _ _ _ _ _ _
  | ldrsbImmPost => exact ldrsbImmPost _ _ _ _ _
  | ldrsbRegPre => exact ldrsbRegPre _ _ _ _ _ _
  | ldrsbRegPost => exact ldrsbRegPost _ _ _ _ _
  | ldrshImmPre => exact ldrshImmPre _ _ _ _ _ _
  | ldrshImmPost => exact ldrshImmPost _ _ _ _ _
  | ldrshRegPre => exact ldrshRegPre _ _ _ _ _ _
  | ldrshRegPost => exact ldrshRegPost _ _ _ _ _
  | ldmia => exact ldmia _ _ _ _
  | ldmib => exact ldmib _ _ _ _
  | ldmda => exact ldmda _ _ _ _
  | ldmdb => exact ldmdb _ _ _ _
  | stmia => exact stmia _ _ _ _
  | stmib => exact stmib _ _ _ _
  | stmda => exact stmda _ _ _ _
  | stmdb => exact stmdb _ _ _ _
  | ldmiaRet => exact ldmiaRet _ _ _ _
  | ldmibRet => exact ldmibRet _ _ _ _
  | ldmdaRet => exact ldmdaRet _ _ _ _
  | ldmdbRet => exact ldmdbRet _ _ _ _
  | ldmiaUsr => exact ldmiaUsr _ _ _
  | ldmibUsr => exact ldmibUsr _ _ _
  | ldmdaUsr => exact ldmdaUsr _ _ _
  | ldmdbUsr => exact ldmdbUsr _ _ _
  | stmiaUsr => exact stmiaUsr _ _ _
  | stmibUsr => exact stmibUsr _ _ _
  | stmdaUsr => exact stmdaUsr _ _ _
  | stmdbUsr => exact stmdbUsr _ _ _
  | swi => exact swi _ _
  | swp => exact swp _ _ _ _
  | swpb => exact swpb _ _ _ _
  | clz => exact clz _ _ _
  | mrc => exact mrc _ _ _ _ _
  | mcr => exact mcr _ _ _ _ _

end

/-- The condition field of a word, where it is a condition. -/
theorem Cond.bits_of_ofBits {b : BitVec 4} {c : Cond} (h : Cond.ofBits b = some c) :
    c.bits = b := by
  revert b c
  decide

theorem Cond.ofBits_eq_none {b : BitVec 4} : Cond.ofBits b = none ↔ b = 15 := by
  revert b
  decide

theorem ShiftKind.bits_ofBits (b : BitVec 2) : (ShiftKind.ofBits b).bits = b := by
  revert b
  decide

/-- Three bits of a word are a field. -/
theorem field_three (x : Word) (k : Nat) : fieldOf x k 3 =
    BitVec.ofBool (x.getLsbD (k + 2)) ++ BitVec.ofBool (x.getLsbD (k + 1)) ++
      BitVec.ofBool (x.getLsbD k) := by
  rw [← field_bit, ← field_bit, ← field_bit, field_append x (k + 1) 1 1, field_append x k 2 1]

/-- The fields above bit 15, which most formats share (R83, R87, R89). -/
theorem fields_above16 (x : Word) : fieldOf x 28 4 ++ fieldOf x 25 3 ++ fieldOf x 24 1 ++
    fieldOf x 23 1 ++ fieldOf x 22 1 ++ fieldOf x 21 1 ++ fieldOf x 20 1 ++ fieldOf x 16 4 =
      fieldOf x 16 16 := by
  rw [field_append x 25 4 3, field_append x 24 7 1, field_append x 23 8 1, field_append x 22 9 1,
    field_append x 21 10 1, field_append x 20 11 1, field_append x 16 12 4]

/-- The fields of a half-word transfer (R87). -/
theorem hsdt_fields (x : Word) : fieldOf x 28 4 ++ fieldOf x 25 3 ++ fieldOf x 24 1 ++
    fieldOf x 23 1 ++ fieldOf x 22 1 ++ fieldOf x 21 1 ++ fieldOf x 20 1 ++ fieldOf x 16 4 ++
    fieldOf x 12 4 ++ fieldOf x 8 4 ++ fieldOf x 7 1 ++ fieldOf x 6 1 ++ fieldOf x 5 1 ++
    fieldOf x 4 1 ++ fieldOf x 0 4 = x := by
  rw [fields_above16, field_append x 12 16 4, field_append x 8 20 4, field_append x 7 24 1,
    field_append x 6 25 1, field_append x 5 26 1, field_append x 4 27 1, field_append x 0 28 4,
    field_whole]

section
variable {c : Cond} {x : Word}

theorem encodeSdtImm_fields (hc : fieldOf x 28 4 = c.bits) (h25 : fieldOf x 25 3 = 0b010) :
    encodeSdtImm c (x.getLsbD 24) (x.getLsbD 23) (x.getLsbD 22) (x.getLsbD 21) (x.getLsbD 20)
      (fieldOf x 16 4) (fieldOf x 12 4) (fieldOf x 0 12) = x := by
  have whole : fieldOf x 28 4 ++ fieldOf x 25 3 ++ fieldOf x 24 1 ++ fieldOf x 23 1 ++
      fieldOf x 22 1 ++ fieldOf x 21 1 ++ fieldOf x 20 1 ++ fieldOf x 16 4 ++ fieldOf x 12 4 ++
      fieldOf x 0 12 = x := by
    rw [fields_above16, field_append x 12 16 4, field_append x 0 20 12, field_whole]
  simp only [hc, h25, field_bit] at whole
  exact whole

theorem encodeSdtReg_fields (hc : fieldOf x 28 4 = c.bits) (h25 : fieldOf x 25 3 = 0b011)
    (h4 : x.getLsbD 4 = false) :
    encodeSdtReg c (x.getLsbD 24) (x.getLsbD 23) (x.getLsbD 22) (x.getLsbD 21) (x.getLsbD 20)
      (fieldOf x 16 4) (fieldOf x 12 4) (fieldOf x 7 5) (ShiftKind.ofBits (fieldOf x 5 2))
      (fieldOf x 0 4) = x := by
  have whole : fieldOf x 28 4 ++ fieldOf x 25 3 ++ fieldOf x 24 1 ++ fieldOf x 23 1 ++
      fieldOf x 22 1 ++ fieldOf x 21 1 ++ fieldOf x 20 1 ++ fieldOf x 16 4 ++ fieldOf x 12 4 ++
      fieldOf x 7 5 ++ fieldOf x 5 2 ++ fieldOf x 4 1 ++ fieldOf x 0 4 = x := by
    rw [fields_above16, field_append x 12 16 4, field_append x 7 20 5, field_append x 5 25 2,
      field_append x 4 27 1, field_append x 0 28 4, field_whole]
  simp only [hc, h25, field_bit, h4] at whole
  rw [encodeSdtReg, ShiftKind.bits_ofBits]
  exact whole

theorem encodeHsdtImm_fields (hc : fieldOf x 28 4 = c.bits) (h25 : fieldOf x 25 3 = 0b000)
    (h22 : x.getLsbD 22 = true) (h7 : x.getLsbD 7 = true) (h4 : x.getLsbD 4 = true) :
    encodeHsdtImm c (x.getLsbD 24) (x.getLsbD 23) (x.getLsbD 21) (x.getLsbD 20) (x.getLsbD 6)
      (x.getLsbD 5) (fieldOf x 16 4) (fieldOf x 12 4) (fieldOf x 8 4 ++ fieldOf x 0 4) = x := by
  have whole := hsdt_fields x
  simp only [hc, h25, field_bit, h22, h7, h4] at whole
  rw [encodeHsdtImm, extract_high _ _ (by decide), extract_low _ _ (by decide),
    BitVec.extractLsb'_eq_self, BitVec.extractLsb'_eq_self]
  exact whole

theorem encodeHsdtReg_fields (hc : fieldOf x 28 4 = c.bits) (h25 : fieldOf x 25 3 = 0b000)
    (h22 : x.getLsbD 22 = false) (h8 : fieldOf x 8 4 = 0) (h7 : x.getLsbD 7 = true)
    (h4 : x.getLsbD 4 = true) :
    encodeHsdtReg c (x.getLsbD 24) (x.getLsbD 23) (x.getLsbD 21) (x.getLsbD 20) (x.getLsbD 6)
      (x.getLsbD 5) (fieldOf x 16 4) (fieldOf x 12 4) (fieldOf x 0 4) = x := by
  have whole := hsdt_fields x
  simp only [hc, h25, field_bit, h22, h8, h7, h4] at whole
  exact whole

theorem encodeBdt_fields (hc : fieldOf x 28 4 = c.bits) (h25 : fieldOf x 25 3 = 0b100) :
    encodeBdt c (x.getLsbD 24) (x.getLsbD 23) (x.getLsbD 22) (x.getLsbD 21) (x.getLsbD 20)
      (fieldOf x 16 4) (fieldOf x 0 16) = x := by
  have whole : fieldOf x 28 4 ++ fieldOf x 25 3 ++ fieldOf x 24 1 ++ fieldOf x 23 1 ++
      fieldOf x 22 1 ++ fieldOf x 21 1 ++ fieldOf x 20 1 ++ fieldOf x 16 4 ++
      fieldOf x 0 16 = x := by
    rw [fields_above16, field_append x 0 16 16, field_whole]
  simp only [hc, h25, field_bit] at whole
  exact whole

theorem encodeSwi_fields (hc : fieldOf x 28 4 = c.bits) (h24 : fieldOf x 24 4 = 0b1111) :
    encode (.swi c (fieldOf x 0 24)) = x := by
  have whole : fieldOf x 28 4 ++ fieldOf x 24 4 ++ fieldOf x 0 24 = x := by
    rw [field_append x 24 4 4, field_append x 0 8 24, field_whole]
  rw [hc, h24] at whole
  exact whole

/-- The words of SWP and SWPB, `op` being bits 27:20. -/
theorem swap_fields {op : BitVec 8} (hc : fieldOf x 28 4 = c.bits) (h20 : fieldOf x 20 8 = op)
    (h4 : fieldOf x 4 8 = 0b00001001) :
    c.bits ++ op ++ fieldOf x 16 4 ++ fieldOf x 12 4 ++ 0b00001001#8 ++ fieldOf x 0 4 = x := by
  have whole : fieldOf x 28 4 ++ fieldOf x 20 8 ++ fieldOf x 16 4 ++ fieldOf x 12 4 ++
      fieldOf x 4 8 ++ fieldOf x 0 4 = x := by
    rw [field_append x 20 4 8, field_append x 16 12 4, field_append x 12 16 4,
      field_append x 4 20 8, field_append x 0 28 4, field_whole]
  rw [hc, h20, h4] at whole
  exact whole

theorem encodeClz_fields (hc : fieldOf x 28 4 = c.bits) (h16 : fieldOf x 16 12 = 0b000101101111)
    (h4 : fieldOf x 4 8 = 0b11110001) : encode (.clz c (fieldOf x 12 4) (fieldOf x 0 4)) = x := by
  have whole : fieldOf x 28 4 ++ fieldOf x 16 12 ++ fieldOf x 12 4 ++ fieldOf x 4 8 ++
      fieldOf x 0 4 = x := by
    rw [field_append x 16 4 12, field_append x 12 16 4, field_append x 4 20 8,
      field_append x 0 28 4, field_whole]
  rw [hc, h16, h4] at whole
  exact whole

/-- The words of MRC and MCR, `op` being bits 27:20. -/
theorem cprt_fields {op : BitVec 8} (hc : fieldOf x 28 4 = c.bits) (h20 : fieldOf x 20 8 = op)
    (h8 : fieldOf x 8 4 = 0b1111) (h4 : x.getLsbD 4 = true) :
    c.bits ++ op ++ fieldOf x 16 4 ++ fieldOf x 12 4 ++ 0b1111#4 ++ fieldOf x 5 3 ++ 1#1 ++
      fieldOf x 0 4 = x := by
  have whole : fieldOf x 28 4 ++ fieldOf x 20 8 ++ fieldOf x 16 4 ++ fieldOf x 12 4 ++
      fieldOf x 8 4 ++ fieldOf x 5 3 ++ fieldOf x 4 1 ++ fieldOf x 0 4 = x := by
    rw [field_append x 20 4 8, field_append x 16 12 4, field_append x 12 16 4,
      field_append x 8 20 4, field_append x 5 24 3, field_append x 4 27 1, field_append x 0 28 4,
      field_whole]
  rw [hc, h20, h8, field_bit, h4] at whole
  exact whole

end

section
variable {c : Cond} {x : Word} {i : Instr}

theorem exists_layout_of_decodeSwap (hc : fieldOf x 28 4 = c.bits) (h25 : fieldOf x 25 3 = 0)
    (h7 : x.getLsbD 7 = true) (h5 : fieldOf x 5 2 = 0) (h4 : x.getLsbD 4 = true)
    (hd : decodeSwap c x = some i) : ∃ f, Layout.instr c f = some i ∧ f.word c = x := by
  simp only [decodeSwap] at hd
  split at hd
  case isFalse => cases hd
  case isTrue h =>
    obtain ⟨h23, h20, h8⟩ := h
    have low : fieldOf x 4 8 = 0b00001001 := by
      rw [← field_append x 4 7 1, ← field_append x 5 5 2, ← field_append x 7 4 1, h8, field_bit,
        h7, h5, field_bit, h4]
      rfl
    have high (b : Bool) (h22 : x.getLsbD 22 = b) :
        fieldOf x 20 8 = 0b00010#5 ++ BitVec.ofBool b ++ 0b00#2 := by
      rw [← field_append x 20 6 2, ← field_append x 22 5 1, ← field_append x 23 3 2, h25, h23, h20,
        field_bit, h22]
      rfl
    split at hd <;> cases hd
    case h_1 h22 => exact ⟨.swp .., rfl, swap_fields hc (high false h22) low⟩
    case h_2 h22 => exact ⟨.swpb .., rfl, swap_fields hc (high true h22) low⟩

theorem exists_layout_of_decodeClz (hc : fieldOf x 28 4 = c.bits) (h25 : fieldOf x 25 3 = 0)
    (hd : decodeClz c x = some i) : ∃ f, Layout.instr c f = some i ∧ f.word c = x := by
  simp only [decodeClz] at hd
  split at hd
  case isFalse => cases hd
  case isTrue h =>
    obtain ⟨h16, h4⟩ := h
    have high : fieldOf x 16 12 = 0b000101101111 := by
      rw [← field_append x 16 3 9, h25, h16]
      rfl
    cases hd
    exact ⟨.clz .., rfl, encodeClz_fields hc high h4⟩

theorem exists_layout_of_decodeCprt (hc : fieldOf x 28 4 = c.bits) (h25 : fieldOf x 25 3 = 0b111)
    (h24 : x.getLsbD 24 = false) (hd : decodeCprt c x = some i) :
    ∃ f, Layout.instr c f = some i ∧ f.word c = x := by
  simp only [decodeCprt] at hd
  split at hd
  case isFalse => cases hd
  case isTrue h =>
    obtain ⟨h21, h8, h4⟩ := h
    have high (l : Bool) (h20 : x.getLsbD 20 = l) :
        fieldOf x 20 8 = 0b1110000#7 ++ BitVec.ofBool l := by
      rw [← field_append x 20 7 1, ← field_append x 21 4 3, ← field_append x 24 3 1, h25, field_bit,
        h24, h21, field_bit, h20]
      rfl
    split at hd <;> cases hd
    case h_1 h20 => exact ⟨.mrc .., rfl, cprt_fields hc (high true h20) h8 h4⟩
    case h_2 h20 => exact ⟨.mcr .., rfl, cprt_fields hc (high false h20) h8 h4⟩

/-- A word that decodes is the word of an admitted layout, whose instruction it decodes to. -/
theorem exists_layout_of_decodeBody (hc : fieldOf x 28 4 = c.bits) (hd : decodeBody c x = some i) :
    ∃ f, Layout.instr c f = some i ∧ f.word c = x := by
  have field25 {a b d : Bool} (h27 : x.getLsbD 27 = a) (h26 : x.getLsbD 26 = b)
      (h25 : x.getLsbD 25 = d) :
      fieldOf x 25 3 = BitVec.ofBool a ++ BitVec.ofBool b ++ BitVec.ofBool d := by
    rw [field_three, h27, h26, h25]
  unfold decodeBody at hd
  split at hd
  case h_1 h27 h26 h25 =>
    exact ⟨_, (decodeSdtImm_eq c x).symm.trans hd, encodeSdtImm_fields hc (field25 h27 h26 h25)⟩
  case h_2 h27 h26 h25 =>
    cases h4 : x.getLsbD 4 with
    | true => simp only [decodeSdtReg, h4, reduceCtorEq] at hd
    | false =>
      exact ⟨_, (decodeSdtReg_eq c x h4).symm.trans hd,
        encodeSdtReg_fields hc (field25 h27 h26 h25) h4⟩
  case h_3 h27 h26 h25 =>
    exact ⟨_, (decodeBdt_eq c x).symm.trans hd, encodeBdt_fields hc (field25 h27 h26 h25)⟩
  case h_4 h27 h26 h25 =>
    split at hd
    case h_1 h24 =>
      cases hd
      have high : fieldOf x 24 4 = 0b1111 := by
        rw [← field_append x 24 3 1, field25 h27 h26 h25, field_bit, h24]
        rfl
      exact ⟨.swi _, rfl, encodeSwi_fields hc high⟩
    case h_2 h24 => exact exists_layout_of_decodeCprt hc (field25 h27 h26 h25) h24 hd
  case h_5 h27 h26 h25 =>
    have h25 := field25 h27 h26 h25
    split at hd
    case h_1 h7 h4 =>
      split at hd
      case isTrue h5 => exact exists_layout_of_decodeSwap hc h25 h7 h5 h4 hd
      case isFalse =>
        split at hd
        case h_1 h22 =>
          exact ⟨_, (decodeHsdtImm_eq c x).symm.trans hd, encodeHsdtImm_fields hc h25 h22 h7 h4⟩
        case h_2 h22 =>
          by_cases h8 : fieldOf x 8 4 = 0
          · exact ⟨_, (decodeHsdtReg_eq c x h8).symm.trans hd,
              encodeHsdtReg_fields hc h25 h22 h8 h7 h4⟩
          · simp only [decodeHsdtReg, if_neg h8, reduceCtorEq] at hd
    case h_2 => exact exists_layout_of_decodeClz hc h25 hd
  case h_6 => cases hd

end

/-! ### Words -/

/-- A word decodes to an instruction when its condition field is a condition and the rest of it
decodes under the condition. -/
theorem decodeWord_eq_ok {x : Word} {i : Instr} :
    decodeWord x = .ok i ↔
      ∃ c, Cond.ofBits (fieldOf x 28 4) = some c ∧ decodeBody c x = some i := by
  unfold decodeWord
  cases hc : Cond.ofBits (fieldOf x 28 4) with
  | none => simp
  | some c => cases hb : decodeBody c x <;> simp [hb]

/-- The condition field of the word of a layout. -/
theorem Layout.word_cond (c : Cond) (f : Layout) : fieldOf (f.word c) 28 4 = c.bits := by
  cases f with
  | sdtImm => exact sdtImm_field28 ..
  | sdtReg => exact sdtReg_field28 ..
  | hsdtImm => exact hsdtImm_field28 ..
  | hsdtReg => exact hsdtReg_field28 ..
  | bdt => exact bdt_field28 ..
  | swi => exact swi_field28 ..
  | swp => exact swp_field28 ..
  | swpb => exact swpb_field28 ..
  | clz => exact clz_field28 ..
  | mrc => exact mrc_field28 ..
  | mcr => exact mcr_field28 ..

/-- The word of a well-formed instruction decodes to it. -/
theorem decodeWord_encode {i : Instr} (hw : i.wellFormed = true) :
    decodeWord (encode i) = .ok i := by
  obtain ⟨c, f, hi⟩ := Layout.exists_of_wellFormed hw
  obtain ⟨-, he⟩ := encode_of_instr hi
  rw [he, decodeWord_eq_ok]
  exact ⟨c, by rw [f.word_cond, Cond.ofBits_bits], decodeBody_word hi⟩

/-- Settles O1: the bytes of a word decode as the word does, and the word of a well-formed
instruction is the word of its layout. -/
theorem decodeOfEncode : Obligations.DecodeOfEncode := by
  intro i rest hw
  rw [Machine.decode_bytesOfWord_append, decodeWord_encode hw]
  rfl

/-- Settles O2: the fields the decoder reads, put side by side again, are the word. -/
theorem encodeOfDecode : Obligations.EncodeOfDecode := by
  intro x i hd
  obtain ⟨c, hc, hb⟩ := decodeWord_eq_ok.mp hd
  obtain ⟨f, hi, rfl⟩ := exists_layout_of_decodeBody (Cond.bits_of_ofBits hc).symm hb
  exact encode_of_instr hi

/-! ### Rows -/

/-- A row is the row of a well-formed instruction: it does not depend on the list. -/
theorem exists_wellFormed_row (i : Instr) : ∃ j : Instr, j.wellFormed = true ∧ j.row = i.row := by
  cases i with
  | ldmiaRet c w n => exact ⟨.ldmiaRet c w n 0x8000, rfl, rfl⟩
  | ldmibRet c w n => exact ⟨.ldmibRet c w n 0x8000, rfl, rfl⟩
  | ldmdaRet c w n => exact ⟨.ldmdaRet c w n 0x8000, rfl, rfl⟩
  | ldmdbRet c w n => exact ⟨.ldmdbRet c w n 0x8000, rfl, rfl⟩
  | ldmiaUsr c n => exact ⟨.ldmiaUsr c n 0, rfl, rfl⟩
  | ldmibUsr c n => exact ⟨.ldmibUsr c n 0, rfl, rfl⟩
  | ldmdaUsr c n => exact ⟨.ldmdaUsr c n 0, rfl, rfl⟩
  | ldmdbUsr c n => exact ⟨.ldmdbUsr c n 0, rfl, rfl⟩
  | stmiaUsr c n => exact ⟨.stmiaUsr c n 0, rfl, rfl⟩
  | stmibUsr c n => exact ⟨.stmibUsr c n 0, rfl, rfl⟩
  | stmdaUsr c n => exact ⟨.stmdaUsr c n 0, rfl, rfl⟩
  | stmdbUsr c n => exact ⟨.stmdbUsr c n 0, rfl, rfl⟩
  | _ => exact ⟨_, rfl, rfl⟩

/-- A word that matches a row decodes, under any condition, to an instruction of the row. -/
theorem decodeBody_of_row (c : Cond) {i : Instr} {x : Word} (hx : x &&& i.row.1 = i.row.2) :
    ∃ j, decodeBody c x = some j ∧ j.row = i.row := by
  obtain ⟨k, hk, hrow⟩ := exists_wellFormed_row i
  rw [← hrow] at hx ⊢
  obtain ⟨c', f, hf⟩ := Layout.exists_of_wellFormed hk
  obtain ⟨-, he⟩ := encode_of_instr hf
  refine decodeBody_of_fits hf ?_
  rw [Layout.Fits, ← Layout.row_mask hf, hx, ← he]
  exact (encode_matches_row k hk).symm

/-- A word that decodes matches the row of its instruction. -/
theorem row_of_decodeWord {x : Word} {i : Instr} (hd : decodeWord x = .ok i) :
    x &&& i.row.1 = i.row.2 := by
  obtain ⟨hw, rfl⟩ := encodeOfDecode x i hd
  exact encode_matches_row i hw

/-- The condition field of a word is 0b1111, or a condition (R82). -/
theorem cond1111_iff {x : Word} : x.extractLsb' 28 4 = 15 ↔ Cond.ofBits (fieldOf x 28 4) = none :=
  Cond.ofBits_eq_none.symm

theorem exists_cond {x : Word} (h : x.extractLsb' 28 4 ≠ 15) :
    ∃ c, Cond.ofBits (fieldOf x 28 4) = some c :=
  Option.ne_none_iff_exists'.mp (mt cond1111_iff.mpr h)

/-- Settles O3: decoding under one condition is a function, so that a word has one row. -/
theorem decodeTestsTheRows : Obligations.DecodeTestsTheRows := by
  refine ⟨fun x i j hi hj => ?_, fun x i hd => ⟨?_, row_of_decodeWord hd⟩, fun x i hc hx => ?_⟩
  · obtain ⟨i', hi', hri⟩ := decodeBody_of_row .al hi
    obtain ⟨j', hj', hrj⟩ := decodeBody_of_row .al hj
    obtain rfl : i' = j' := Option.some.inj (hi'.symm.trans hj')
    exact hri.symm.trans hrj
  · obtain ⟨c, hc, -⟩ := decodeWord_eq_ok.mp hd
    intro h15
    rw [cond1111_iff.mp h15] at hc
    cases hc
  · obtain ⟨c, hc⟩ := exists_cond hc
    obtain ⟨j, hj, hrow⟩ := decodeBody_of_row c hx
    exact ⟨j, decodeWord_eq_ok.mpr ⟨c, hc, hj⟩, hrow⟩

/-- Why a word does not decode: its condition field, or that no row matches it. -/
theorem decodeWord_of_cond1111 {x : Word} (h : x.extractLsb' 28 4 = 15) :
    decodeWord x = .error .cond1111 := by
  rw [decodeWord, cond1111_iff.mp h]

theorem decodeWord_of_no_row {x : Word} (hc : x.extractLsb' 28 4 ≠ 15)
    (hx : ∀ i : Instr, x &&& i.row.1 ≠ i.row.2) : decodeWord x = .error .notAdmitted := by
  obtain ⟨c, hc⟩ := exists_cond hc
  cases hb : decodeBody c x with
  | none => simp only [decodeWord, hc, hb]
  | some i => exact absurd (row_of_decodeWord (decodeWord_eq_ok.mpr ⟨c, hc, hb⟩)) (hx i)

/-- Settles O4: a fetched word is refused for the reason it does not decode. -/
theorem otherWordsAreRefused : Obligations.OtherWordsAreRefused := by
  intro s m x hf
  refine ⟨fun hc => ?_, fun hc hx => ?_⟩
  · rw [Machine.step_of_fetches hf, decodeWord_of_cond1111 hc]
    rfl
  · rw [Machine.step_of_fetches hf, decodeWord_of_no_row hc hx]
    rfl

/-- Settles O5: each word is evaluated. -/
theorem writtenOutWordsDecode : Obligations.WrittenOutWordsDecode :=
  ⟨by decide, by decide, by decide, by decide, by decide, by decide, by decide, by decide⟩

end Sys2Proof
end

section
/-! ## Single loads and stores that go on (spec 40_single_word_byte.md R124 to R131,
41_halfword_signed.md R154) -/

namespace Sys2Proof.Claims

open Sys2Proof.Machine

theorem valueAt_byte {s : State} {a : Word} {b : Byte} (h : s.byteAt a = some b) :
    s.valueAt a .byte = some (b.setWidth 32) := by
  rw [State.valueAt, h, Option.map_some]

theorem storedReg_eq_storedValue (s : State) (m : Mode) (d : RegNum) :
    s.storedReg m d = storedValue s m d := rfl

theorem storedReg_of_ne_fifteen {s : State} {m : Mode} {d : RegNum} (hd : d ≠ 15) :
    s.storedReg m d = s.readReg m d := if_neg hd

theorem jump_of_low_bits_zero {s : State} {v : Word} (h : v.toNat % 4 = 0) :
    s.jump v = .ok (s.setPc v) := if_pos ((low_two_bits v).mpr h)

theorem jump_of_low_bits_ne_zero {s : State} {v : Word} (h : v.toNat % 4 ≠ 0) :
    s.jump v = .refuse .loadPcLowBits := if_neg (mt (low_two_bits v).mp h)

section
variable {i : Instr} {o : MemOperand} {f : Form} {s : State} {m : Mode} {c : Cond} {n d : RegNum}
  {uv p : Bool}

/-- An instruction that is executed ends where its body does. -/
theorem next_of_body {t : State} {body : Mode → Res State} (hr : Runs s m c)
    (he : exec i s = s.whenPassed c body) (hb : body m = .ok t) : exec i s = .next t := by
  rw [he, State.whenPassed_of_passed hr.mode hr.passed, hb, State.conclude_ok]

/-- A load of a word into r0 to r14 (R124, R128). -/
theorem loadWord_next {v : Word} (h : Denotes o f s m n)
    (he : exec i s = s.whenPassed c fun m => s.loadSingle m .word uv o d p) (hr : Ready s m c)
    (hd : d ≠ 15) (hl : f.Legal n d) (ha : WordGoes s (f.addr (s.readReg m n)))
    (hv : CanRead s (accessPriv m uv) (wordBase (f.addr (s.readReg m n))) .word v) :
    exec i s = .next (f.loaded s m n d
      (v.rotateRight (8 * ((f.addr (s.readReg m n)).toNat % 4)))) := by
  rw [← extend_word]
  exact next_of_body hr.runs he (h.loadSingle hl hd hr.next (checkAlign_word.mpr ha) hv)

/-- A load of a byte (R126, R130). -/
theorem loadByte_next {b : Byte} (h : Denotes o f s m n)
    (he : exec i s = s.whenPassed c fun m => s.loadSingle m .ubyte uv o d p) (hr : Ready s m c)
    (hd : d ≠ 15) (hl : f.Legal n d)
    (hv : s.denied (f.addr (s.readReg m n)) .byte .read (accessPriv m uv) = false)
    (hb : s.byteAt (f.addr (s.readReg m n)) = some b) :
    exec i s = .next (f.loaded s m n d (b.setWidth 32)) :=
  next_of_body hr.runs he (h.loadSingle hl hd hr.next checkAlign_byte ⟨hv, valueAt_byte hb⟩)

/-- A load of the pc is a jump to the loaded value, after the base is written back (R124). -/
theorem Denotes.loadSingle_fifteen {k : LoadKind} {v : Word} (h : Denotes o f s m n)
    (hl : f.Legal n 15) (ha : s.checkAlign (f.addr (s.readReg m n)) k.width = .ok ())
    (hv : CanRead s (accessPriv m uv) (accessAddr (f.addr (s.readReg m n)) k.width) k.width v) :
    s.loadSingle m k uv o 15 true =
      (f.writeBack s m n (s.readReg m n)).jump (k.extend (f.addr (s.readReg m n)) v) := by
  have hop : ¬ o.unpredictable 15 true = true :=
    Bool.eq_false_iff.mp (h.predictable.mpr ⟨hl, fun _ => rfl⟩)
  have hread := State.memRead_ok.mpr ⟨hv.permitted, hv.value⟩
  simp only [State.loadSingle, if_neg hop, h.address, ha, hread, Res.bind_ok_left, h.writeBack]
  rfl

/-- A store of any width: the bytes are stored, the base is written back and the next instruction
follows (R125, R127, R129, R131, R154). -/
theorem store_next {w : Width} (h : Denotes o f s m n)
    (he : exec i s = s.whenPassed c fun m => s.storeSingle m w uv o d p) (hr : Ready s m c)
    (hd : d = 15 → p = true) (hl : f.Legal n d)
    (ha : s.checkAlign (f.addr (s.readReg m n)) w = .ok ())
    (hv : s.denied (accessAddr (f.addr (s.readReg m n)) w) w .write (accessPriv m uv) = false) :
    exec i s = .next
      (f.stored s m n (accessAddr (f.addr (s.readReg m n)) w) w (s.storedReg m d)) :=
  next_of_body hr.runs he (h.storeSingle hl hd hr.next ha hv)

end

/-- Settles O26: LDR is a load of a word with the privilege of the mode. -/
theorem ldrLoadsTheWord : Obligations.LdrLoadsTheWord := fun s m _ n _ x _ hr hd hl ha hv =>
  loadWord_next (x.denotes s m n) (exec_ldr ..) hr hd hl ha hv

/-- Settles O28: the jump to the rotated word is taken or refused by its bits 1:0. -/
theorem ldrOfR15Jumps : Obligations.LdrOfR15Jumps := by
  intro s m c n x v r hr hl ha hv hrot
  have hjump : exec (ldr c n 15 x) s =
      s.conclude (((x.form s m).writeBack s m n (s.readReg m n)).jump r) := by
    rw [exec_ldr, State.whenPassed_of_passed hr.mode hr.passed,
      (x.denotes s m n).loadSingle_fifteen (k := .word) (uv := false) hl
        (checkAlign_word.mpr ha) hv, extend_word, hrot]
  refine ⟨fun hlow => ?_, fun hlow => ?_⟩
  · rw [hjump, jump_of_low_bits_zero hlow, State.conclude_ok]
  · rw [hjump, jump_of_low_bits_ne_zero hlow, State.conclude_refuse]

/-- Settles O29: LDRB is a load of a byte with the privilege of the mode. -/
theorem ldrbLoadsTheByte : Obligations.LdrbLoadsTheByte := fun s m _ n _ x _ hr hd hl hv hb =>
  loadByte_next (x.denotes s m n) (exec_ldrb ..) hr hd hl hv hb

/-- Settles O30: LDRT and LDRBT are the same loads with User privilege, at the base. -/
theorem userViewLoads : Obligations.UserViewLoads := by
  intro s m c n d x hr hd hl
  rw [← x.addr s m (s.readReg m n)]
  exact ⟨fun v ha hv => loadWord_next (x.denotes s m n) (exec_ldrt ..) hr hd hl ha hv,
    fun b hv hb => loadByte_next (x.denotes s m n) (exec_ldrbt ..) hr hd hl hv hb⟩

/-- Settles O32: STR is a store of a word, which admits r15. -/
theorem strStoresTheWord : Obligations.StrStoresTheWord := by
  intro s m c n d x hr hl ha hv
  rw [← storedReg_eq_storedValue]
  exact store_next (x.denotes s m n) (exec_str ..) hr (fun _ => rfl) hl (checkAlign_word.mpr ha) hv

/-- Settles O33: STRB and STRH are stores at their own address. -/
theorem byteAndHalfwordStores : Obligations.ByteAndHalfwordStores := by
  intro s m c n d hr hd
  rw [← storedReg_of_ne_fifteen hd]
  exact ⟨fun x hl hv => store_next (x.denotes s m n) (exec_strb ..) hr (absurd · hd) hl
      checkAlign_byte hv,
    fun x hl ha hv => store_next (x.denotes s m n) (exec_strh ..) hr (absurd · hd) hl
      (checkAlign_half.mpr ha) hv⟩

/-- Settles O34: STRT and STRBT are stores with User privilege, at the base. -/
theorem userViewStores : Obligations.UserViewStores := by
  intro s m c n d x hr hd hl
  rw [← storedReg_of_ne_fifteen hd, ← x.addr s m (s.readReg m n)]
  exact ⟨fun ha hv => store_next (x.denotes s m n) (exec_strt ..) hr (absurd · hd) hl
      (checkAlign_word.mpr ha) hv,
    fun hv => store_next (x.denotes s m n) (exec_strbt ..) hr (absurd · hd) hl checkAlign_byte hv⟩

end Sys2Proof.Claims
end

section
/-! ## What single loads and stores leave unchanged (spec 40_single_word_byte.md R124 to R134,
41_halfword_signed.md R153, R154) -/

namespace Sys2Proof.Claims

open Sys2Proof.Machine

/-! ### The frame along the updates of a state -/

section
variable {s t : State} {R : PhysReg → Prop} {B : Word → Prop}

/-- A frame holds on after an update that keeps the control part and writes no other register and no
other byte. -/
theorem Keeps.update {u : State} (h : Keeps s t R B) (hc : u.control = t.control)
    (hi : u.abortInfo = t.abortInfo) (hr : ∀ q, ¬ R q → u.getPhys q = t.getPhys q)
    (hb : ∀ a, ¬ B a → u.byteAt a = t.byteAt a) : Keeps s u R B where
  regs q hq := (hr q hq).trans (h.regs q hq)
  bytes a ha := (hb a ha).trans (h.bytes a ha)
  cpsr := (cpsr_of_control hc).trans h.cpsr
  spsr m := (spsr?_of_control hc m).trans (h.spsr m)
  cp15c1 := (cp15c1_of_control hc).trans h.cp15c1
  abortInfo := hi.trans h.abortInfo
  denials := (denials_of_control hc).trans h.denials
  params := (params_of_control hc).trans h.params
  lines := (lines_of_control hc).trans h.lines

theorem Keeps.refl (s : State) (R : PhysReg → Prop) (B : Word → Prop) : Keeps s s R B :=
  ⟨fun _ _ => rfl, fun _ _ => rfl, rfl, fun _ => rfl, rfl, rfl, rfl, rfl, rfl⟩

theorem Keeps.setPc (h : Keeps s t R B) (v : Word) : Keeps s (t.setPc v) R B :=
  h.update rfl rfl (fun _ _ => rfl) (fun _ _ => rfl)

theorem Keeps.writeReg (h : Keeps s t R B) {m : Mode} {i : RegNum} (v : Word)
    (hR : ∀ q, physReg m i = some q → R q) : Keeps s (t.writeReg m i v) R B := by
  refine h.update (by simp) (by simp) (fun q hq => ?_) (fun a _ => ?_)
  · rw [getPhys_writeReg, if_neg (mt (hR q) hq)]
  · rw [State.byteAt, State.writeReg_mem, State.byteAt]

theorem Keeps.store (h : Keeps s t R B) {a : Word} {w : Width} (v : Word)
    (hB : ∀ x ∈ storedAt a w, B x) : Keeps s (t.store a w v) R B :=
  h.update (by simp) (by simp) (fun q _ => t.store_getPhys a w v q)
    fun x hx => t.byteAt_store_of_not_mem a x w v (mt (hB x) hx)

/-- The base that a form writes back is one of the registers it writes. -/
theorem Keeps.writeBack {f : Form} {m : Mode} {n : RegNum} {d : Option RegNum}
    (h : Keeps s t (f.writes m n d) B) (base : Word) :
    Keeps s (f.writeBack t m n base) (f.writes m n d) B := by
  unfold Form.writeBack
  split
  · next hw => exact h.writeReg _ fun q hq => .inr ⟨hw, hq⟩
  · exact h

end

/-! ### The frame of an instruction -/

section
variable {i : Instr} {o : MemOperand} {f : Form} {s t : State} {m : Mode} {c : Cond} {n d : RegNum}
  {uv p : Bool}

/-- An instruction has the frame of its body: where the condition fails only the pc changes, and an
abort of the body is the instruction's. -/
theorem frame_of_body {body : Mode → Res State} {R : PhysReg → Prop} {B : Word → Prop}
    (hm : s.mode? = some m) (he : exec i s = s.whenPassed c body)
    (hb : body m = .ok t → Keeps s t R B) (hn : exec i s = .next t) :
    Aborted s t ∨ Keeps s t R B := by
  obtain ⟨k, hk, hcase⟩ := State.whenPassed_next.mp (he.symm.trans hn)
  obtain rfl : k = m := Option.some.inj (hk.symm.trans hm)
  rcases hcase with ⟨-, -, rfl⟩ | ⟨-, hok | ⟨a, -, rfl⟩⟩
  · exact .inr ((Keeps.refl s R B).setPc _)
  · exact .inr (hb hok)
  · exact .inl ⟨a.cause, a.addr, dataAborts_enterDataAbort s a⟩

/-- A load that ends wrote the base and Rd. -/
theorem Denotes.loadSingle_keeps {k : LoadKind} (h : Denotes o f s m n)
    (hok : s.loadSingle m k uv o d p = .ok t) : Keeps s t (f.writes m n (some d)) noByte := by
  obtain ⟨-, -, v, -, hfinish⟩ := State.loadSingle_ok.mp hok
  rw [h.writeBack] at hfinish
  have hbase : Keeps s (f.writeBack s m n (s.readReg m n)) (f.writes m n (some d)) noByte :=
    (Keeps.refl s _ _).writeBack _
  rcases State.finishLoad_ok.mp hfinish with ⟨-, -, rfl⟩ | ⟨-, -, rfl⟩
  · exact hbase.setPc _
  · exact (hbase.writeReg _ fun q hq => .inl ⟨d, rfl, hq⟩).setPc _

/-- A store that ends wrote the bytes of its access and the base. -/
theorem Denotes.storeSingle_keeps {w : Width} (h : Denotes o f s m n)
    (hok : s.storeSingle m w uv o d p = .ok t) :
    Keeps s t (f.writes m n none) (span (accessAddr (f.addr (s.readReg m n)) w) w.bytes) := by
  obtain ⟨-, -, -, -, rfl⟩ := State.storeSingle_ok.mp hok
  rw [h.address, h.writeBack]
  exact (((Keeps.refl s _ _).store _ fun x hx => mem_storedAt_iff.mp hx).writeBack _).setPc _

theorem load_frame {k : LoadKind} (hm : s.mode? = some m) (h : Denotes o f s m n)
    (he : exec i s = s.whenPassed c fun m => s.loadSingle m k uv o d p) (hn : exec i s = .next t) :
    Aborted s t ∨ Keeps s t (f.writes m n (some d)) noByte :=
  frame_of_body hm he h.loadSingle_keeps hn

theorem store_frame {w : Width} (hm : s.mode? = some m) (h : Denotes o f s m n)
    (he : exec i s = s.whenPassed c fun m => s.storeSingle m w uv o d p)
    (hn : exec i s = .next t) :
    Aborted s t ∨
      Keeps s t (f.writes m n none) (span (accessAddr (f.addr (s.readReg m n)) w) w.bytes) :=
  frame_of_body hm he h.storeSingle_keeps hn

end

/-- Settles O40: every one of the listed instructions is a single load. -/
theorem singleLoadFrame : Obligations.SingleLoadFrame := by
  intro s t m c n d hm
  refine ⟨fun x i hi hn => ?_, fun x i hi hn => ?_, fun x i hi hn => ?_⟩
  all_goals
    have hx := x.denotes s m n
    simp only [List.mem_cons, List.not_mem_nil, or_false] at hi
  · rcases hi with rfl | rfl
    · exact load_frame hm hx (exec_ldr ..) hn
    · exact load_frame hm hx (exec_ldrb ..) hn
  · rcases hi with rfl | rfl
    · exact load_frame hm hx (exec_ldrt ..) hn
    · exact load_frame hm hx (exec_ldrbt ..) hn
  · rcases hi with rfl | rfl | rfl
    · exact load_frame hm hx (exec_ldrh ..) hn
    · exact load_frame hm hx (exec_ldrsb ..) hn
    · exact load_frame hm hx (exec_ldrsh ..) hn

/-- Settles O41: the stores access the aligned address, or for a byte or half-word the address
itself; for the T forms it is the base. -/
theorem singleStoreFrame : Obligations.SingleStoreFrame := by
  intro s t m c n d hm
  refine ⟨fun x hn => ?_, fun x hn => ?_, fun x hn => ?_, fun x hn => ?_, fun x hn => ?_⟩
  · exact store_frame hm (x.denotes s m n) (exec_str ..) hn
  · exact store_frame hm (x.denotes s m n) (exec_strb ..) hn
  · rw [← x.addr s m (s.readReg m n)]
    exact store_frame hm (x.denotes s m n) (exec_strt ..) hn
  · rw [← x.addr s m (s.readReg m n)]
    exact store_frame hm (x.denotes s m n) (exec_strbt ..) hn
  · exact store_frame hm (x.denotes s m n) (exec_strh ..) hn

end Sys2Proof.Claims
end

section
/-! ## Loads of half-words and of signed bytes (spec 41_halfword_signed.md R153, R157, R158) -/

namespace Sys2Proof.Claims

open Sys2Proof.Machine

theorem valueAt_half {s : State} {a : Word} {h : BitVec 16} (hh : s.halfAt a = some h) :
    s.valueAt a .half = some (h.setWidth 32) := by
  rw [State.valueAt, hh, Option.map_some]

/-- The low `k` bits of a value extended with zeros to a word are the value. -/
theorem extractLsb'_setWidth_word {k : Nat} (v : BitVec k) (hk : k ≤ 32) :
    (v.setWidth 32).extractLsb' 0 k = v := by
  rw [BitVec.extractLsb'_setWidth_of_le (by omega), BitVec.extractLsb'_eq_self]

theorem extend_sbyte (a : Word) (b : Byte) :
    LoadKind.sbyte.extend a (b.setWidth 32) = b.signExtend 32 :=
  congrArg (BitVec.signExtend 32) (extractLsb'_setWidth_word b (by decide))

theorem extend_shalf (a : Word) (h : BitVec 16) :
    LoadKind.shalf.extend a (h.setWidth 32) = h.signExtend 32 :=
  congrArg (BitVec.signExtend 32) (extractLsb'_setWidth_word h (by decide))

/-- A load of any kind into r0 to r14: the base is written back, the extended value loaded and the
next instruction follows (R124, R126, R128, R130, R153, R157, R158). -/
theorem load_next {i : Instr} {o : MemOperand} {f : Form} {s : State} {m : Mode} {c : Cond}
    {n d : RegNum} {uv p : Bool} {k : LoadKind} {v : Word} (h : Denotes o f s m n)
    (he : exec i s = s.whenPassed c fun m => s.loadSingle m k uv o d p) (hr : Ready s m c)
    (hd : d ≠ 15) (hl : f.Legal n d) (ha : s.checkAlign (f.addr (s.readReg m n)) k.width = .ok ())
    (hv : CanRead s (accessPriv m uv) (accessAddr (f.addr (s.readReg m n)) k.width) k.width v) :
    exec i s = .next (f.loaded s m n d (k.extend (f.addr (s.readReg m n)) v)) :=
  next_of_body hr.runs he (h.loadSingle hl hd hr.next ha hv)

/-- Settles O31: the three are loads with the privilege of the mode; LDRH and LDRSH read the same
aligned half-word and LDRSB the byte at any address. -/
theorem halfwordAndSignedLoads : Obligations.HalfwordAndSignedLoads := by
  rintro s m c n d x _ hr hd hl rfl
  have hx := x.denotes s m n
  refine ⟨fun h heven hv hh => ⟨?ldrh, ?ldrsh⟩, fun b hv hb => ?ldrsb⟩
  case ldrh =>
    exact load_next hx (exec_ldrh ..) hr hd hl (checkAlign_half.mpr heven) ⟨hv, valueAt_half hh⟩
  case ldrsh =>
    rw [← extend_shalf]
    exact load_next hx (exec_ldrsh ..) hr hd hl (checkAlign_half.mpr heven) ⟨hv, valueAt_half hh⟩
  case ldrsb =>
    rw [← extend_sbyte]
    exact load_next hx (exec_ldrsb ..) hr hd hl checkAlign_byte ⟨hv, valueAt_byte hb⟩

end Sys2Proof.Claims
end

section
/-! ## The five forms of a multiple transfer, and what they refuse before the first access (spec
42_multiple.md R171, R182 to R186) -/

namespace Sys2Proof.Claims

open Sys2Proof.Machine

/-- The instruction of a form, once its condition passed. -/
def Block.body (k : Block) (s : State) (m : Mode) (b : BlockMode) (n : RegNum) (list : BitVec 16) :
    Res State :=
  match k with
  | .ldm w => s.ldm m b w n list
  | .ldmRet w => s.ldmReturn m b w n list
  | .ldmUsr => s.ldmUser m b n list
  | .stm w => s.stm m b w n list
  | .stmUsr => s.stmUser m b n list

/-- How a form ends, with the value loaded for r15 if it is in the list. -/
def Block.finish (k : Block) (m : Mode) (t : State) (v : Option Word) : Res State :=
  match k with
  | .ldm _ => v.elim t.advance t.jump
  | .ldmRet _ => v.elim (.refuse .notAdmitted) (t.returnFromException m)
  | .ldmUsr => (t.setHazard true).advance
  | .stm _ => t.advance
  | .stmUsr => t.advance

/-- The transfer of a form: the checks of R171, the accesses and the end. -/
def Block.transfer (k : Block) (s : State) (m : Mode) (b : BlockMode) (n : RegNum)
    (list : BitVec 16) : Res State :=
  if k.isLoad then s.loadBlock m (k.bank m) b k.writesBack n list (k.finish m)
  else s.storeBlock m (k.bank m) b k.writesBack n list

theorem Block.exec_instr (k : Block) (s : State) (b : BlockMode) (c : Cond) (n : RegNum)
    (list : BitVec 16) :
    exec (k.instr b c n list) s = s.whenPassed c fun m => k.body s m b n list := by
  cases k with
  | ldm w => exact exec_ldm ..
  | ldmRet w => exact exec_ldmRet ..
  | ldmUsr => exact exec_ldmUsr ..
  | stm w => exact exec_stm ..
  | stmUsr => exact exec_stmUsr ..

theorem ldm_eq_transfer (s : State) (m : Mode) (b : BlockMode) (w : Bool) (n : RegNum)
    (list : BitVec 16) : s.ldm m b w n list = (Block.ldm w).transfer s m b n list :=
  congrArg (s.loadBlock m m b w n list) (funext fun _ => funext fun v => by cases v <;> rfl)

theorem ldmReturn_eq_transfer {s : State} {m : Mode} (b : BlockMode) (w : Bool) (n : RegNum)
    (list : BitVec 16) (h : s.spsr? m ≠ none) :
    s.ldmReturn m b w n list = (Block.ldmRet w).transfer s m b n list :=
  (if_neg h).trans
    (congrArg (s.loadBlock m m b w n list) (funext fun _ => funext fun v => by cases v <;> rfl))

/-- A form that is no reading of a word, or a `^` form without an SPSR, is refused; any other is its
transfer (R183 to R185, log 25). -/
theorem Block.body_cases (k : Block) (s : State) (m : Mode) (b : BlockMode) (n : RegNum)
    (list : BitVec 16) :
    k.body s m b n list = k.transfer s m b n list ∨ ∃ r, k.body s m b n list = .refuse r := by
  cases k with
  | ldm w => exact .inl (ldm_eq_transfer ..)
  | stm w => exact .inl rfl
  | ldmRet w =>
    by_cases hs : s.spsr? m = none
    · exact .inr ⟨_, if_pos hs⟩
    · exact .inl (ldmReturn_eq_transfer b w n list hs)
  | ldmUsr =>
    by_cases hl : list.getLsbD 15 = true
    · exact .inr ⟨_, if_pos hl⟩
    · by_cases hs : s.spsr? m = none
      · exact .inr ⟨_, (if_neg hl).trans (if_pos hs)⟩
      · exact .inl ((if_neg hl).trans (if_neg hs))
  | stmUsr =>
    by_cases hl : list.getLsbD 15 = true
    · exact .inr ⟨_, if_pos hl⟩
    · by_cases hs : s.spsr? m = none
      · exact .inr ⟨_, (if_neg hl).trans (if_pos hs)⟩
      · exact .inl ((if_neg hl).trans (if_neg hs))

theorem Block.body_of_admits {k : Block} {s : State} {m : Mode} {list : BitVec 16} (b : BlockMode)
    (n : RegNum) (h : k.Admits s m list) : k.body s m b n list = k.transfer s m b n list := by
  cases k with
  | ldm w => exact ldm_eq_transfer ..
  | stm w => rfl
  | ldmRet w => exact ldmReturn_eq_transfer b w n list h.1
  | ldmUsr => exact (if_neg (Bool.eq_false_iff.mp h.2)).trans (if_neg h.1)
  | stmUsr => exact (if_neg (Bool.eq_false_iff.mp h.2)).trans (if_neg h.1)

/-- An admitted form that is executed is its transfer. -/
theorem Block.exec_of_admits {k : Block} {s : State} {m : Mode} {c : Cond} {list : BitVec 16}
    (b : BlockMode) (n : RegNum) (hr : Runs s m c) (h : k.Admits s m list) :
    exec (k.instr b c n list) s = s.conclude (k.transfer s m b n list) := by
  rw [k.exec_instr, State.whenPassed_of_passed hr.mode hr.passed, Block.body_of_admits b n h]

/-- Every transfer begins with the checks of R171. -/
theorem Block.transfer_checks (k : Block) (s : State) (m : Mode) (b : BlockMode) (n : RegNum)
    (list : BitVec 16) :
    ∃ rest, k.transfer s m b n list =
      (s.checkBlock k.isLoad b k.writesBack n list (s.readReg m n)).bind rest := by
  cases k <;> exact ⟨_, rfl⟩

/-- What the checks of R171 refuse, an admitted form refuses. -/
theorem Block.refused_of_checkBlock {k : Block} {s : State} {m : Mode} {c : Cond} {b : BlockMode}
    {n : RegNum} {list : BitVec 16} {r : Refusal} (hr : Runs s m c) (ha : k.Admits s m list)
    (h : s.checkBlock k.isLoad b k.writesBack n list (s.readReg m n) = .refuse r) :
    exec (k.instr b c n list) s = .refused r := by
  obtain ⟨rest, hrest⟩ := k.transfer_checks s m b n list
  rw [Block.exec_of_admits b n hr ha, hrest, h]
  rfl

section
variable {s : State} {load w : Bool} {b : BlockMode} {n : RegNum} {list : BitVec 16} {base : Word}

theorem checkBlock_refuses_operands (hne : list ≠ 0) (h : n = 15 ∨ ¬ BaseOk load w n list) :
    s.checkBlock load b w n list base = .refuse .unpredictableOperands := by
  have hlist : ¬ BaseOk load w n list → baseListed load w n list = true := by
    rw [← Bool.not_eq_false, baseListed_iff]
    exact id
  rw [State.checkBlock, if_neg hne]
  rcases h with h15 | hbase
  · exact if_pos h15
  · rw [if_pos (hlist hbase), ite_self]

/-- Past the operands of R171 the base is checked, then the range. -/
theorem checkBlock_of_operands (hne : list ≠ 0) (hn : n ≠ 15) (hb : BaseOk load w n list) :
    s.checkBlock load b w n list base =
      if !aligned base .word then
        (if s.alignFlag then .abort ⟨.alignment, base⟩ else .refuse .unalignedMultiple)
      else if b.wraps base (regsOf list).length then .refuse .addressWrap
      else .ok () := by
  rw [State.checkBlock, if_neg hne, if_neg hn,
    if_neg (Bool.eq_false_iff.mp ((baseListed_iff load w n list).mpr hb))]

end

/-- Settles O49: each clause is one of the checks that every transfer begins with. -/
theorem blockRefusals : Obligations.BlockRefusals := by
  intro s m c k b n list hr ha
  refine ⟨fun h0 => ?empty, fun hne hop => ?operands,
    fun hne hn hb => ⟨fun hal hA => ?unaligned, fun hal hfit => ?wraps⟩⟩
  all_goals apply Block.refused_of_checkBlock hr ha
  case empty => exact if_pos h0
  case operands => exact checkBlock_refuses_operands hne hop
  case unaligned =>
    rw [checkBlock_of_operands hne hn hb, not_aligned_word hal, hA]
    rfl
  case wraps =>
    have hwraps : b.wraps (s.readReg m n) (regsOf list).length = true := by
      rwa [← Bool.not_eq_false, wraps_iff _ _ _ hal]
    rw [checkBlock_of_operands hne hn hb, (aligned_word _).mpr hal, hwraps]
    rfl

end Sys2Proof.Claims
end

section
/-! ## LDM that goes on, jumps or returns (spec 42_multiple.md R171 to R175, R181 to R184) -/

namespace Sys2Proof.Claims

open Sys2Proof.Machine

/-! ### The words of a list -/

/-- What holds of the word of every listed register holds at every place of the range. -/
theorem forall_place {P : RegNum → Word → Prop} {b : BlockMode} {base : Word} {list : BitVec 16}
    (h : ∀ i, listed list i = true → P i (wordOf b base list i)) {k : Nat} {i : RegNum}
    (hk : (regsOf list)[k]? = some i) :
    P i (b.start base (regsOf list).length + 4 * BitVec.ofNat 32 k) := by
  rw [wordOf_rank hk]
  exact h i (rank_regsOf hk).1

/-- Every word of the list can be read: the reads give the values in the order of the list. -/
theorem readWords_of_canRead {s : State} {p : Priv} {b : BlockMode} {base : Word}
    {list : BitVec 16} {v : RegNum → Word}
    (hv : ∀ i, listed list i = true → CanRead s p (wordOf b base list i) .word (v i)) :
    s.readWords p (b.start base (regsOf list).length) (regsOf list) =
      .ok ((regsOf list).map fun i => (i, v i)) := by
  refine readWords_of_readable s p _ _ v fun k i hk => ?_
  obtain ⟨hperm, hval⟩ := forall_place (P := fun i a => CanRead s p a .word (v i)) hv hk
  exact ⟨hperm, hval⟩

/-- The value loaded for r15 is that of its word, where the list has it. -/
theorem pcValue_map (list : BitVec 16) (v : RegNum → Word) :
    pcValue ((regsOf list).map fun i => (i, v i)) =
      if listed list 15 = true then some (v 15) else none := by
  have hfind : (regsOf list).find? (fun i => decide (i = 15)) =
      if listed list 15 = true then some 15 else none := by
    split
    · next h =>
      obtain ⟨j, hj⟩ := Option.isSome_iff_exists.mp
        (List.find?_isSome (p := fun i : RegNum => decide (i = 15)) |>.mpr
          ⟨15, mem_regsOf.mpr h, decide_eq_true rfl⟩)
      rw [hj, of_decide_eq_true (List.find?_some (p := fun i : RegNum => decide (i = 15)) hj)]
    · next h =>
      rw [List.find?_eq_none]
      intro i hi hdec
      exact h (of_decide_eq_true hdec ▸ mem_regsOf.mp hi)
  unfold pcValue
  rw [List.find?_map]
  simp only [Function.comp_def, hfind]
  split <;> rfl

/-! ### The loaded state -/

/-- The state after the loads and the write-back of a form, before its end. -/
def Block.loaded (k : Block) (s : State) (m : Mode) (b : BlockMode) (n : RegNum)
    (list : BitVec 16) (v : RegNum → Word) : State :=
  (if k.writesBack then s.writeReg m n (newBase b (s.readReg m n) list) else s).writeRegs (k.bank m)
    ((regsOf list).map fun i => (i, v i))

section
variable {k : Block} {s : State} {m : Mode} {c : Cond} {b : BlockMode} {n : RegNum}
  {list : BitVec 16} {v : RegNum → Word}

/-- A load form whose words can all be read ends from the loaded state. -/
theorem Block.exec_loads (hr : Runs s m c) (ha : k.Admits s m list) (hk : k.isLoad = true)
    (hready : BlockReady s m b n list) (hbase : BaseOk true k.writesBack n list)
    (hv : ∀ i, listed list i = true →
      CanRead s m.priv (wordOf b (s.readReg m n) list i) .word (v i)) :
    exec (k.instr b c n list) s = s.conclude (k.finish m (k.loaded s m b n list v)
      (if listed list 15 = true then some (v 15) else none)) := by
  rw [Block.exec_of_admits b n hr ha, Block.transfer, if_pos hk]
  simp only [State.loadBlock, checkBlock_of_ready hready hbase, Res.bind_ok_left,
    readWords_of_canRead hv, pcValue_map, newBase_eq, Block.loaded]

@[simp] theorem Block.loaded_pc : (k.loaded s m b n list v).pc = s.pc := by
  unfold Block.loaded
  split <;> simp

/-- Once the loads are done, a listed register of the bank holds the value of its word. -/
theorem Block.readReg_loaded {t : State} {bank : Mode} {i : RegNum}
    (ht : t.gpr = (k.loaded s m b n list v).gpr) (hbank : k.bank m = bank)
    (hi : listed list i = true) (h15 : i ≠ 15) : t.readReg bank i = v i := by
  obtain ⟨q, hq⟩ := physReg_isSome (m := k.bank m) h15
  subst hbank
  rw [readReg_eq hq, State.getPhys, ht]
  refine getPhys_writeRegs_of_mem _ _ _ i (v i) q hq ?_ (List.mem_map.mpr ⟨i, mem_regsOf.mpr hi, rfl⟩)
  rw [List.map_map]
  exact (List.map_id _).symm ▸ nodup_regsOf list

/-- And a base that is written back holds its new value: it is not in the list. -/
theorem Block.readReg_loaded_base {t : State} (ht : t.gpr = (k.loaded s m b n list v).gpr)
    (hn : n ≠ 15) (hbank : k.bank m = m) (hbase : BaseOk true k.writesBack n list)
    (hw : k.writesBack = true) : t.readReg m n = newBase b (s.readReg m n) list := by
  obtain ⟨q, hq⟩ := physReg_isSome (m := m) hn
  have hkeep : ∀ x ∈ (regsOf list).map fun i => (i, v i), physReg m x.1 ≠ some q := by
    intro x hx hxq
    obtain ⟨i, hi, rfl⟩ := List.mem_map.mp hx
    obtain rfl : i = n := physReg_inj hxq hq
    exact Bool.false_ne_true (hbase hw (mem_regsOf.mp hi)).1.symm
  have hloaded : (k.loaded s m b n list v).getPhys q = newBase b (s.readReg m n) list := by
    rw [Block.loaded, hbank, getPhys_writeRegs_of_not_mem _ _ _ _ hkeep, if_pos hw,
      getPhys_writeReg, if_pos hq]
  rw [readReg_eq hq, State.getPhys, ht]
  exact hloaded

theorem Keeps.writeRegs {t : State} {R : PhysReg → Prop} {B : Word → Prop} {bank : Mode}
    {l : List (RegNum × Word)} (h : Keeps s t R B)
    (hR : ∀ x ∈ l, ∀ q, physReg bank x.1 = some q → R q) : Keeps s (t.writeRegs bank l) R B := by
  refine h.update (by simp) (by simp) (fun q hq => ?_) (fun a _ => ?_)
  · exact getPhys_writeRegs_of_not_mem _ _ _ _ fun x hx hxq => hq (hR x hx q hxq)
  · rw [State.byteAt, State.writeRegs_mem, State.byteAt]

/-- The base that a form writes back is one of the registers it writes. -/
theorem Keeps.writeBase {t : State} {R : PhysReg → Prop} {B : Word → Prop} {w : Bool} {v : Word}
    (h : Keeps s t R B) (hR : ∀ q, baseOnly m w n q → R q) :
    Keeps s (if w then t.writeReg m n v else t) R B := by
  split
  · next hw => exact h.writeReg _ fun q hq => hR q ⟨hw, hq⟩
  · exact h

theorem Block.loaded_keeps :
    Keeps s (k.loaded s m b n list v) (loads (k.bank m) m k.writesBack n list) noByte := by
  refine ((Keeps.refl s _ _).writeBase fun _ => .inr).writeRegs fun x hx q hq => ?_
  obtain ⟨i, hi, rfl⟩ := List.mem_map.mp hx
  exact .inl ⟨i, mem_regsOf.mp hi, hq⟩

end

theorem conclude_of_refuse {s : State} {x : Res State} {r : Refusal} (h : x = .refuse r) :
    s.conclude x = .refused r := by rw [h, State.conclude_refuse]

theorem advance_of_pc {t : State} {a : Word} (h : t.pc = a) (hne : a ≠ 0xFFFFFFFC) :
    t.advance = .ok (t.setPc (a + 4)) := by
  subst h
  exact State.advance_of_ne hne

theorem ne_fifteen_of_listed {list : BitVec 16} {i : RegNum} (h15 : listed list 15 = false)
    (hi : listed list i = true) : i ≠ 15 := by
  rintro rfl
  exact Bool.false_ne_true (h15.symm.trans hi)

/-- Settles O42: without r15 the loaded state only advances. -/
theorem ldmLoadsTheList : Obligations.LdmLoadsTheList := by
  intro s m c b w n list v hr hready hbase h15 hv
  have hexec := Block.exec_loads (k := .ldm w) hr.runs trivial rfl hready hbase hv
  rw [h15] at hexec
  have hend : ((Block.ldm w).loaded s m b n list v).advance =
      .ok (((Block.ldm w).loaded s m b n list v).setPc (s.pc + 4)) :=
    advance_of_pc Block.loaded_pc hr.next
  exact ⟨_, hexec.trans (congrArg s.conclude hend), rfl,
    fun i hi => Block.readReg_loaded (k := .ldm w) rfl rfl hi (ne_fifteen_of_listed h15 hi),
    fun hw => Block.readReg_loaded_base (k := .ldm w) rfl hready.base rfl hbase hw,
    (Block.loaded_keeps (k := .ldm w)).setPc _⟩

/-- Settles O43: with r15 the loaded state jumps to the value of its word, or the jump is refused. -/
theorem ldmOfR15Jumps : Obligations.LdmOfR15Jumps := by
  intro s m c b w n list v hr hready hbase h15 hv
  have hexec := Block.exec_loads (k := .ldm w) hr trivial rfl hready hbase hv
  rw [if_pos h15] at hexec
  refine ⟨fun hlow => ?jumps, fun hlow => ?refused⟩
  case jumps =>
    exact ⟨_, hexec.trans (congrArg s.conclude (jump_of_low_bits_zero hlow)), rfl,
      fun i hi15 hi => Block.readReg_loaded (k := .ldm w) rfl rfl hi hi15,
      fun hw => Block.readReg_loaded_base (k := .ldm w) rfl hready.base rfl hbase hw,
      (Block.loaded_keeps (k := .ldm w)).setPc _⟩
  case refused => exact hexec.trans (conclude_of_refuse (jump_of_low_bits_ne_zero hlow))

/-- Settles O47: the User registers are loaded from the words at the base of the current mode. -/
theorem ldmLoadsTheUserRegisters : Obligations.LdmLoadsTheUserRegisters := by
  intro s m c b n list v hr hspsr hready h15 hv
  have hexec := Block.exec_loads (k := .ldmUsr) hr.runs ⟨hspsr, h15⟩ rfl hready
    (fun hw => absurd hw Bool.false_ne_true) hv
  have hend : ((Block.ldmUsr.loaded s m b n list v).setHazard true).advance =
      .ok (((Block.ldmUsr.loaded s m b n list v).setHazard true).setPc (s.pc + 4)) :=
    advance_of_pc Block.loaded_pc hr.next
  exact ⟨_, hexec.trans (congrArg s.conclude hend), rfl,
    fun i hi => Block.readReg_loaded (k := .ldmUsr) rfl rfl hi (ne_fifteen_of_listed h15 hi), rfl,
    (Block.loaded_keeps (k := .ldmUsr)).update rfl rfl (fun _ _ => rfl) (fun _ _ => rfl)⟩

/-! ### The return from an exception -/

/-- In a mode with an SPSR the return looks at the T and M it would restore, then jumps (R183). -/
theorem returnFromException_of_spsr {s : State} {m : Mode} {p : Word} (v : Word)
    (h : s.spsr? m = some p) :
    s.returnFromException m v =
      if psrT p then .refuse .thumbNotInScope
      else if psrMode? p = none then .refuse .illegalMode
      else (s.setCpsr p).jump v := by
  rw [State.returnFromException, h]

theorem Keeps.restoreCpsr {s t : State} {R : PhysReg → Prop} {B : Word → Prop} (h : Keeps s t R B)
    (p : Word) : Keeps s { t.setCpsr p with cpsr := s.cpsr } R B :=
  ⟨h.regs, h.bytes, rfl, h.spsr, h.cp15c1, h.abortInfo, h.denials, h.params, h.lines⟩

/-- Settles O45: the loaded state takes the SPSR of the mode as its CPSR and jumps. -/
theorem ldmReturnRestoresTheCpsr : Obligations.LdmReturnRestoresTheCpsr := by
  intro s m c b w n list v p hr hready hbase h15 hv hp hT hM hlow
  have hspsr : s.spsr? m ≠ none := by rw [hp]; exact Option.some_ne_none p
  have hexec := Block.exec_loads (k := .ldmRet w) hr ⟨hspsr, h15⟩ rfl hready hbase hv
  rw [if_pos h15] at hexec
  have hkeeps := Block.loaded_keeps (k := .ldmRet w) (s := s) (m := m) (b := b) (n := n)
    (list := list) (v := v)
  have hend := State.returnFromException_ok.mpr
    ⟨p, (hkeeps.spsr m).trans hp, hT, hM, (low_two_bits _).mpr hlow, rfl⟩
  exact ⟨_, hexec.trans (congrArg s.conclude hend), rfl, rfl,
    fun i hi15 hi => Block.readReg_loaded (k := .ldmRet w) rfl rfl hi hi15,
    fun hw => Block.readReg_loaded_base (k := .ldmRet w) rfl hready.base rfl hbase hw,
    (hkeeps.restoreCpsr p).setPc _⟩

/-- User and System mode have no SPSR, the others have one (R27). -/
theorem spsr?_eq_none_iff (s : State) (m : Mode) : s.spsr? m = none ↔ m = .usr ∨ m = .sys := by
  cases m <;> simp [State.spsr?]

/-- Settles O46: the `^` forms ask for an SPSR before anything else; the return looks at the SPSR
after its loads, and at the loaded pc last. -/
theorem caretFormRefusals : Obligations.CaretFormRefusals := by
  intro s m c b w n list hr
  refine ⟨fun hm => ?noSpsr, fun hm h15 i hi => ?userBank, fun v p hready hbase h15 hv hp => ?ret⟩
  case noSpsr =>
    exact refused_of_body hr (exec_ldmRet ..) (if_pos ((spsr?_eq_none_iff s m).mpr hm))
  case userBank =>
    have hbank : ∀ x : Res State, (if list.getLsbD 15 then .refuse .notAdmitted
        else if s.spsr? m = none then .refuse .userBankFormInUserOrSystem else x) =
        .refuse .userBankFormInUserOrSystem := fun x =>
      (if_neg (Bool.eq_false_iff.mp h15)).trans (if_pos ((spsr?_eq_none_iff s m).mpr hm))
    simp only [List.mem_cons, List.not_mem_nil, or_false] at hi
    rcases hi with rfl | rfl
    · exact refused_of_body hr (exec_ldmUsr ..) (hbank _)
    · exact refused_of_body hr (exec_stmUsr ..) (hbank _)
  case ret =>
    have hspsr : s.spsr? m ≠ none := by rw [hp]; exact Option.some_ne_none p
    have hexec := Block.exec_loads (k := .ldmRet w) (c := c) hr ⟨hspsr, h15⟩ rfl hready hbase hv
    have hkeeps := Block.loaded_keeps (k := .ldmRet w) (s := s) (m := m) (b := b) (n := n)
      (list := list) (v := v)
    have hreturn := returnFromException_of_spsr (v 15) ((hkeeps.spsr m).trans hp)
    rw [if_pos h15] at hexec
    refine ⟨fun hT => ?_, fun hT hM => ?_, fun hT hM hlow => ?_⟩
    all_goals refine hexec.trans (conclude_of_refuse (hreturn.trans ?_))
    · exact if_pos hT
    · exact (if_neg (Bool.eq_false_iff.mp hT)).trans (if_pos hM)
    · rw [if_neg (Bool.eq_false_iff.mp hT), if_neg hM, jump_of_low_bits_ne_zero hlow]

end Sys2Proof.Claims
end

section
/-! ## STM that goes on (spec 42_multiple.md R171, R176 to R179, R181, R182, R185) -/

namespace Sys2Proof.Claims

open Sys2Proof.Machine

/-! ### Ranges of words -/

theorem place_zero (a : Word) : a + 4 * BitVec.ofNat 32 0 = a := by bv_omega

theorem place_succ (a : Word) (k : Nat) :
    a + 4 * BitVec.ofNat 32 (k + 1) = a + 4 + 4 * BitVec.ofNat 32 k := by
  rw [four_mul_ofNat, four_mul_ofNat]
  bv_omega

/-- A range of words is its first word and the range after it. -/
theorem span_succ_of_word {a x : Word} (k : Nat) (h : span a 4 x) : span a (4 * (k + 1)) x := by
  obtain ⟨j, hj, rfl⟩ := h
  exact ⟨j, by omega, rfl⟩

theorem span_succ_of_tail {a x : Word} {k : Nat} (h : span (a + 4) (4 * k) x) :
    span a (4 * (k + 1)) x := by
  obtain ⟨j, hj, rfl⟩ := h
  exact ⟨j + 4, by omega, by bv_omega⟩

/-- A word of a range lies in it. -/
theorem span_of_place {a x : Word} {j k : Nat} (hj : j < k)
    (h : span (a + 4 * BitVec.ofNat 32 j) 4 x) : span a (4 * k) x := by
  obtain ⟨i, hi, rfl⟩ := h
  refine ⟨4 * j + i, by omega, ?_⟩
  rw [four_mul_ofNat]
  bv_omega

/-- And every byte of the range lies in one of its words. -/
theorem place_of_span {a x : Word} {k : Nat} (h : span a (4 * k) x) :
    ∃ j < k, span (a + 4 * BitVec.ofNat 32 j) 4 x := by
  obtain ⟨i, hi, rfl⟩ := h
  refine ⟨i / 4, by omega, i % 4, by omega, ?_⟩
  rw [four_mul_ofNat]
  bv_omega

/-- A range no longer than the address space does not come back to its first word. -/
theorem not_span_tail {a x : Word} {k : Nat} (hk : 4 * (k + 1) ≤ 4294967296) (h : span a 4 x) :
    ¬ span (a + 4) (4 * k) x := by
  obtain ⟨i, hi, rfl⟩ := h
  rintro ⟨j, hj, hij⟩
  bv_omega

/-- A word is what its four bytes are. -/
theorem wordAt_congr {s t : State} {a : Word} (h : ∀ x, span a 4 x → t.byteAt x = s.byteAt x) :
    t.wordAt a = s.wordAt a := by
  have hbyte : ∀ x ∈ storedAt a .word, t.byteAt x = s.byteAt x := fun x hx =>
    h x (mem_storedAt_iff.mp hx)
  simp only [storedAt, List.mem_cons, List.not_mem_nil, or_false, forall_eq_or_imp,
    forall_eq] at hbyte
  obtain ⟨h0, h1, h2, h3⟩ := hbyte
  unfold State.wordAt
  rw [h0, h1, h2, h3]

theorem wordAt_of_mem {s t : State} (h : t.mem = s.mem) (a : Word) : t.wordAt a = s.wordAt a :=
  wordAt_congr fun x _ => by rw [State.byteAt, h, State.byteAt]

theorem Keeps.wordAt {s t : State} {R : PhysReg → Prop} {B : Word → Prop} {a : Word}
    (h : Keeps s t R B) (ha : ∀ x, span a 4 x → ¬ B x) : t.wordAt a = s.wordAt a :=
  wordAt_congr fun x hx => h.bytes x (ha x hx)

theorem Keeps.mono {s t : State} {R R' : PhysReg → Prop} {B B' : Word → Prop} (h : Keeps s t R B)
    (hR : ∀ q, R q → R' q) (hB : ∀ x, B x → B' x) : Keeps s t R' B' :=
  { h with
    regs := fun q hq => h.regs q (mt (hR q) hq)
    bytes := fun x hx => h.bytes x (mt (hB x) hx) }

/-! ### The writes of an STM -/

@[simp] theorem denied_store (s : State) (a v : Word) (w : Width) :
    (s.store a w v).denied = s.denied := by
  funext x y k p
  rw [State.denied, State.store_denials, State.denied]

section
variable {s t : State} {p : Priv} {a : Word} {l : List Word}

/-- Writes that are all permitted go on. -/
theorem writeWords_of_permitted
    (h : ∀ k < l.length, s.denied (a + 4 * BitVec.ofNat 32 k) .word .write p = false) :
    ∃ u, s.writeWords p a l = .ok u := by
  induction l generalizing s a with
  | nil => exact ⟨s, rfl⟩
  | cons v l ih =>
    have hfirst : s.memWrite p a .word v = .ok (s.store a .word v) :=
      State.memWrite_ok.mpr ⟨by simpa using h 0 (by simp), rfl⟩
    have hrest : ∀ k < l.length,
        (s.store a .word v).denied (a + 4 + 4 * BitVec.ofNat 32 k) .word .write p = false := by
      intro k hk
      rw [denied_store, ← place_succ]
      exact h (k + 1) (by simpa using hk)
    rw [State.writeWords, hfirst]
    exact ih hrest

/-- The writes of a range keep everything outside it. -/
theorem Keeps.writeWords {u : State} {R : PhysReg → Prop} {B : Word → Prop} (h : Keeps s t R B)
    (hw : t.writeWords p a l = .ok u) (hB : ∀ x, span a (4 * l.length) x → B x) :
    Keeps s u R B := by
  induction l generalizing t a with
  | nil => cases hw; exact h
  | cons v l ih =>
    simp only [State.writeWords, Res.bind_ok, State.memWrite_ok] at hw
    obtain ⟨_, ⟨-, rfl⟩, hw⟩ := hw
    refine ih (h.store v fun x hx => hB x ?_) hw fun x hx => hB x (span_succ_of_tail hx)
    exact span_succ_of_word l.length (mem_storedAt_iff.mp hx)

/-- After the writes each word of the range holds its value. -/
theorem wordAt_writeWords (h : s.writeWords p a l = .ok t) (hl : 4 * l.length ≤ 4294967296)
    {k : Nat} {v : Word} (hk : l[k]? = some v) :
    t.wordAt (a + 4 * BitVec.ofNat 32 k) = some v := by
  induction l generalizing s a k with
  | nil => cases hk
  | cons w l ih =>
    simp only [State.writeWords, Res.bind_ok, State.memWrite_ok] at h
    obtain ⟨u, ⟨-, rfl⟩, h⟩ := h
    cases k with
    | zero =>
      obtain rfl : w = v := Option.some.inj hk
      have hrest : Keeps (s.store a .word w) t noReg (span (a + 4) (4 * l.length)) :=
        (Keeps.refl _ _ _).writeWords h fun _ hx => hx
      rw [place_zero, hrest.wordAt fun x => not_span_tail hl, State.wordAt_store]
    | succ k =>
      rw [place_succ]
      exact ih h (by simp only [List.length_cons] at hl; omega) hk

end

/-! ### The words of a list, stored -/

section
variable {s u : State} {m bank : Mode} {p : Priv} {b : BlockMode} {base : Word} {list : BitVec 16}

theorem length_words_le (list : BitVec 16) (f : RegNum → Word) :
    4 * ((regsOf list).map f).length ≤ 4294967296 := by
  rw [List.length_map, length_regsOf]
  have := count_le list
  omega

/-- The range of an STM is the words of its list. -/
theorem wordsOf_of_span {f : RegNum → Word} {x : Word}
    (h : span (b.start base (regsOf list).length) (4 * ((regsOf list).map f).length) x) :
    wordsOf b base list x := by
  obtain ⟨k, hk, hx⟩ := place_of_span h
  rw [List.length_map] at hk
  have hplace : (regsOf list)[k]? = some (regsOf list)[k] := List.getElem?_eq_getElem hk
  rw [wordOf_rank hplace] at hx
  exact ⟨_, (rank_regsOf hplace).1, hx⟩

/-- The value of a listed register stands at the place of its rank. -/
theorem getElem?_words {i : RegNum} (hi : listed list i = true) (f : RegNum → Word) :
    ((regsOf list).map f)[countBelow list i.toNat]? = some (f i) := by
  rw [List.getElem?_map, regsOf_rank hi, Option.map_some]

theorem writeWords_of_list_permitted (f : RegNum → Word)
    (h : ∀ i, listed list i = true → s.denied (wordOf b base list i) .word .write p = false) :
    ∃ u, s.writeWords p (b.start base (regsOf list).length) ((regsOf list).map f) = .ok u := by
  refine writeWords_of_permitted fun k hk => ?_
  rw [List.length_map] at hk
  exact forall_place (P := fun _ a => s.denied a .word .write p = false) h
    (List.getElem?_eq_getElem hk)

theorem wordAt_wordOf {f : RegNum → Word}
    (h : s.writeWords p (b.start base (regsOf list).length) ((regsOf list).map f) = .ok u)
    {i : RegNum} (hi : listed list i = true) : u.wordAt (wordOf b base list i) = some (f i) := by
  rw [← wordOf_rank (regsOf_rank hi)]
  exact wordAt_writeWords h (length_words_le list f) (getElem?_words hi f)

theorem writeWords_keeps_list {f : RegNum → Word}
    (h : s.writeWords p (b.start base (regsOf list).length) ((regsOf list).map f) = .ok u) :
    Keeps s u noReg (wordsOf b base list) :=
  (Keeps.refl s _ _).writeWords h fun _ => wordsOf_of_span

end

section
variable {k : Block} {s u : State} {m : Mode} {c : Cond} {b : BlockMode} {n : RegNum}
  {list : BitVec 16}

/-- The state after the writes of a form: its base is written back and the next instruction
follows. -/
def Block.stored (k : Block) (s u : State) (m : Mode) (b : BlockMode) (n : RegNum)
    (list : BitVec 16) : State :=
  (if k.writesBack then u.writeReg m n (newBase b (s.readReg m n) list) else u).setPc (s.pc + 4)

theorem Block.stored_mem : (k.stored s u m b n list).mem = u.mem := by
  unfold Block.stored
  split <;> simp

theorem Block.readReg_stored_base (hn : n ≠ 15) (hw : k.writesBack = true) :
    (k.stored s u m b n list).readReg m n = newBase b (s.readReg m n) list := by
  obtain ⟨q, hq⟩ := physReg_isSome (m := m) hn
  rw [readReg_eq hq, Block.stored, State.setPc_getPhys, if_pos hw, getPhys_writeReg, if_pos hq]

theorem Block.stored_keeps {B : Word → Prop} (h : Keeps s u noReg B) :
    Keeps s (k.stored s u m b n list) (baseOnly m k.writesBack n) B := by
  have hwords : Keeps s u (baseOnly m k.writesBack n) B := h.mono (fun _ => False.elim) fun _ => id
  exact (hwords.writeBase fun _ => id).setPc _

/-- A store form whose words can all be written stores them, writes its base back and goes on. -/
theorem Block.exec_stores (hr : Ready s m c) (ha : k.Admits s m list) (hk : k.isLoad = false)
    (hready : BlockReady s m b n list) (hbase : BaseOk false k.writesBack n list)
    (hperm : ∀ i, listed list i = true →
      s.denied (wordOf b (s.readReg m n) list i) .word .write m.priv = false) :
    ∃ t, exec (k.instr b c n list) s = .next t ∧ t.pc = s.pc + 4 ∧
      (∀ i, listed list i = true →
        t.wordAt (wordOf b (s.readReg m n) list i) = some (storedValue s (k.bank m) i)) ∧
      (k.writesBack = true → t.readReg m n = newBase b (s.readReg m n) list) ∧
      Keeps s t (baseOnly m k.writesBack n) (wordsOf b (s.readReg m n) list) := by
  obtain ⟨u, hu⟩ := writeWords_of_list_permitted (s.storedReg (k.bank m)) hperm
  obtain ⟨-, hpc, -⟩ := writeWords_keeps hu
  have htransfer : k.transfer s m b n list = .ok (k.stored s u m b n list) := by
    rw [Block.transfer, if_neg (Bool.eq_false_iff.mp hk), State.storeBlock_ok, newBase_eq]
    exact ⟨checkBlock_of_ready hready hbase, .inl ⟨u, hu, hpc ▸ hr.next, hpc ▸ rfl⟩⟩
  refine ⟨_, (Block.exec_of_admits b n hr.runs ha).trans (congrArg s.conclude htransfer), rfl,
    fun i hi => ?word, fun hw => Block.readReg_stored_base hready.base hw, ?keeps⟩
  case word =>
    rw [wordAt_of_mem Block.stored_mem]
    exact wordAt_wordOf hu hi
  case keeps => exact Block.stored_keeps (writeWords_keeps_list hu)

end

/-- Settles O44: the registers stored are those of the mode, a listed base and r15 among them. -/
theorem stmStoresTheList : Obligations.StmStoresTheList :=
  fun _ _ _ _ w _ _ hr hready hbase hperm =>
    Block.exec_stores (k := .stm w) hr trivial rfl hready hbase hperm

/-- Settles O48: the registers stored are the User ones, and no base is written back. -/
theorem stmStoresTheUserRegisters : Obligations.StmStoresTheUserRegisters := by
  intro s m c b n list hr hspsr hready h15 hperm
  obtain ⟨t, hexec, hpc, hword, -, hkeeps⟩ := Block.exec_stores (k := .stmUsr) hr ⟨hspsr, h15⟩ rfl
    hready (fun hw => absurd hw Bool.false_ne_true) hperm
  refine ⟨t, hexec, hpc, fun i hi => ?_, hkeeps.mono (fun q hq => ?_) fun _ => id⟩
  · exact (hword i hi).trans
      (congrArg some (storedReg_of_ne_fifteen (ne_fifteen_of_listed h15 hi)))
  · exact absurd hq.1 Bool.false_ne_true

end Sys2Proof.Claims
end

section
/-! ## Multiple transfers with a denied access (spec 42_multiple.md R171, 60_exceptions.md R225) -/

namespace Sys2Proof.Claims

open Sys2Proof.Machine

/-! ### The first access that is denied -/

/-- A place before that of a listed register is that of a listed register with a lower number. -/
theorem place_before {list : BitVec 16} {j : RegNum} {k : Nat} (hj : listed list j = true)
    (hk : k < countBelow list j.toNat) :
    ∃ i, (regsOf list)[k]? = some i ∧ listed list i = true ∧ i.toNat < j.toNat := by
  have hlen : k < (regsOf list).length := by
    rw [length_regsOf]
    exact hk.trans (rank_lt_count hj)
  have hplace : (regsOf list)[k]? = some (regsOf list)[k] := List.getElem?_eq_getElem hlen
  obtain ⟨hi, hrank⟩ := rank_regsOf hplace
  refine ⟨_, hplace, hi, ?_⟩
  by_contra hle
  have := countBelow_mono list (Nat.le_of_not_lt hle)
  omega

section
variable {s : State} {p : Priv} {a : Word}

/-- Reads abort at the first place that is denied, if they get there. -/
theorem readWords_of_denied {l : List RegNum} {k : Nat} (hk : k < l.length)
    (hbefore : ∀ i < k, ∃ v, CanRead s p (a + 4 * BitVec.ofNat 32 i) .word v)
    (hdenied : s.denied (a + 4 * BitVec.ofNat 32 k) .word .read p = true) :
    s.readWords p a l = .abort ⟨.permission, a + 4 * BitVec.ofNat 32 k⟩ := by
  induction l generalizing a k with
  | nil => exact absurd hk (Nat.not_lt_zero k)
  | cons r l ih =>
    rw [State.readWords, Res.bind_abort]
    cases k with
    | zero =>
      rw [place_zero] at hdenied ⊢
      exact .inl (State.memRead_abort.mpr ⟨hdenied, rfl⟩)
    | succ k =>
      obtain ⟨v, hperm, hval⟩ := hbefore 0 (Nat.succ_pos k)
      rw [place_zero] at hperm hval
      simp only [place_succ] at hdenied ⊢
      have hrest := ih (Nat.lt_of_succ_lt_succ hk)
        (fun i hi => by simpa only [place_succ] using hbefore (i + 1) (Nat.succ_lt_succ hi)) hdenied
      exact .inr ⟨v, State.memRead_ok.mpr ⟨hperm, hval⟩, Res.bind_abort.mpr (.inl hrest)⟩

/-- Writes abort at the first place that is denied. -/
theorem writeWords_of_denied {l : List Word} {k : Nat} (hk : k < l.length)
    (hbefore : ∀ i < k, s.denied (a + 4 * BitVec.ofNat 32 i) .word .write p = false)
    (hdenied : s.denied (a + 4 * BitVec.ofNat 32 k) .word .write p = true) :
    s.writeWords p a l = .abort ⟨.permission, a + 4 * BitVec.ofNat 32 k⟩ := by
  induction l generalizing s a k with
  | nil => exact absurd hk (Nat.not_lt_zero k)
  | cons v l ih =>
    rw [State.writeWords, Res.bind_abort]
    cases k with
    | zero =>
      rw [place_zero] at hdenied ⊢
      exact .inl (State.memWrite_abort.mpr ⟨hdenied, rfl⟩)
    | succ k =>
      have hfirst := hbefore 0 (Nat.succ_pos k)
      rw [place_zero] at hfirst
      simp only [place_succ] at hdenied ⊢
      refine .inr ⟨_, State.memWrite_ok.mpr ⟨hfirst, rfl⟩, ih (Nat.lt_of_succ_lt_succ hk) ?_ ?_⟩
      · intro i hi
        rw [denied_store, ← place_succ]
        exact hbefore (i + 1) (Nat.succ_lt_succ hi)
      · rwa [denied_store]

end

section
variable {s : State} {p : Priv} {b : BlockMode} {base : Word} {list : BitVec 16} {j : RegNum}

theorem readWords_of_list_denied (hj : listed list j = true)
    (hdenied : s.denied (wordOf b base list j) .word .read p = true)
    (hbefore : ∀ i : RegNum, listed list i = true → i.toNat < j.toNat →
      ∃ v, CanRead s p (wordOf b base list i) .word v) :
    s.readWords p (b.start base (regsOf list).length) (regsOf list) =
      .abort ⟨.permission, wordOf b base list j⟩ := by
  have hplace := regsOf_rank hj
  obtain ⟨hlen, -⟩ := List.getElem?_eq_some_iff.mp hplace
  rw [← wordOf_rank hplace] at hdenied ⊢
  refine readWords_of_denied hlen (fun i hi => ?_) hdenied
  obtain ⟨r, hr, hlisted, hlt⟩ := place_before hj hi
  rw [wordOf_rank hr]
  exact hbefore r hlisted hlt

theorem writeWords_of_list_denied (f : RegNum → Word) (hj : listed list j = true)
    (hdenied : s.denied (wordOf b base list j) .word .write p = true)
    (hbefore : ∀ i : RegNum, listed list i = true → i.toNat < j.toNat →
      s.denied (wordOf b base list i) .word .write p = false) :
    s.writeWords p (b.start base (regsOf list).length) ((regsOf list).map f) =
      .abort ⟨.permission, wordOf b base list j⟩ := by
  obtain ⟨hlen, -⟩ := List.getElem?_eq_some_iff.mp (getElem?_words hj f)
  rw [← wordOf_rank (regsOf_rank hj)] at hdenied ⊢
  refine writeWords_of_denied hlen (fun i hi => ?_) hdenied
  obtain ⟨r, hr, hlisted, hlt⟩ := place_before hj hi
  rw [wordOf_rank hr]
  exact hbefore r hlisted hlt

end

/-! ### What an aborted transfer leaves -/

/-- The Data Abort of a transfer returns to the instruction that began it (R225). -/
theorem enters_of_pc {s u : State} (h : u.pc = s.pc) (i : AbortInfo) :
    Enters u (u.enterDataAbort i) .abt 0x10 (s.pc + 8) false (some i) :=
  h ▸ dataAborts_enterDataAbort u i

theorem mem_clobbered {bank m : Mode} {n : RegNum} {list : BitVec 16} {q : PhysReg} :
    q ∈ clobbered bank m n (regsOf list) ↔
      loads bank m false n list q ∧ physReg m n ≠ some q := by
  simp only [clobbered, List.mem_filter, List.mem_filterMap, mem_regsOf, decide_eq_true_eq, loads,
    Bool.false_eq_true, false_and, or_false]

/-- The draws of an aborted LDM change only the registers of its list, and not its base. -/
theorem drawRegs_keeps (s : State) (bank m : Mode) (n : RegNum) (list : BitVec 16) :
    Keeps s (s.drawRegs (clobbered bank m n (regsOf list)))
      (fun q => loads bank m false n list q ∧ physReg m n ≠ some q) noByte := by
  refine (Keeps.refl s _ _).update (by simp) (by simp) (fun q hq => ?_) (fun a _ => ?_)
  · exact getPhys_drawRegs_of_not_mem _ _ _ (mt mem_clobbered.mp hq)
  · rw [State.byteAt, State.drawRegs_mem, State.byteAt]

section
variable {s t : State} {a : Word} {l : List Word}

/-- The draw of one word of an aborted STM stores its new value or leaves its old one. -/
def wordDrawn (s : State) (a v : Word) : State :=
  if Config.freeBit s.draws then (s.setDraws (s.draws + 1)).store a .word v
  else s.setDraws (s.draws + 1)

theorem drawWords_cons (s : State) (a v : Word) (l : List Word) :
    s.drawWords a (v :: l) = (wordDrawn s a v).drawWords (a + 4) l := rfl

theorem Keeps.drawWord {R : PhysReg → Prop} {B : Word → Prop} {v : Word} (h : Keeps s t R B)
    (hB : ∀ x, span a 4 x → B x) : Keeps s (wordDrawn t a v) R B := by
  have hdraws : Keeps s (t.setDraws (t.draws + 1)) R B :=
    h.update rfl rfl (fun _ _ => rfl) (fun _ _ => rfl)
  unfold wordDrawn
  split
  · exact hdraws.store v fun x hx => hB x (mem_storedAt_iff.mp hx)
  · exact hdraws

theorem wordAt_drawWord (s : State) (a v : Word) :
    (wordDrawn s a v).wordAt a = s.wordAt a ∨ (wordDrawn s a v).wordAt a = some v := by
  unfold wordDrawn
  split
  · exact .inr (State.wordAt_store ..)
  · exact .inl rfl

/-- The draws of a range keep everything outside it. -/
theorem Keeps.drawWords {R : PhysReg → Prop} {B : Word → Prop} (h : Keeps s t R B)
    (hB : ∀ x, span a (4 * l.length) x → B x) : Keeps s (t.drawWords a l) R B := by
  induction l generalizing t a with
  | nil => exact h
  | cons v l ih =>
    rw [drawWords_cons]
    exact ih (h.drawWord fun x hx => hB x (span_succ_of_word l.length hx))
      fun x hx => hB x (span_succ_of_tail hx)

/-- After the draws each word of the range holds its old or its new value. -/
theorem wordAt_drawWords (hl : 4 * l.length ≤ 4294967296) {k : Nat} {v : Word}
    (hk : l[k]? = some v) :
    (s.drawWords a l).wordAt (a + 4 * BitVec.ofNat 32 k) = s.wordAt (a + 4 * BitVec.ofNat 32 k) ∨
      (s.drawWords a l).wordAt (a + 4 * BitVec.ofNat 32 k) = some v := by
  induction l generalizing s a k with
  | nil => cases hk
  | cons w l ih =>
    rw [drawWords_cons]
    cases k with
    | zero =>
      obtain rfl : w = v := Option.some.inj hk
      have hrest : Keeps (wordDrawn s a w) ((wordDrawn s a w).drawWords (a + 4) l) noReg
          (span (a + 4) (4 * l.length)) := (Keeps.refl _ _ _).drawWords fun _ hx => hx
      rw [place_zero, hrest.wordAt fun x => not_span_tail hl]
      exact wordAt_drawWord s a w
    | succ k =>
      have hfirst : Keeps s (wordDrawn s a w) noReg (span a 4) :=
        (Keeps.refl _ _ _).drawWord fun _ hx => hx
      have hword : (wordDrawn s a w).wordAt (a + 4 + 4 * BitVec.ofNat 32 k) =
          s.wordAt (a + 4 + 4 * BitVec.ofNat 32 k) := by
        obtain ⟨hlt, -⟩ := List.getElem?_eq_some_iff.mp hk
        exact hfirst.wordAt fun x hx hx' =>
          not_span_tail hl hx' (span_of_place (Nat.lt_of_succ_lt_succ hlt) hx)
      rw [place_succ, ← hword]
      exact ih (by simp only [List.length_cons] at hl; omega) hk

end

theorem drawWords_keeps_list (s : State) (b : BlockMode) (base : Word) (list : BitVec 16)
    (f : RegNum → Word) :
    Keeps s (s.drawWords (b.start base (regsOf list).length) ((regsOf list).map f)) noReg
      (wordsOf b base list) :=
  (Keeps.refl s _ _).drawWords fun _ => wordsOf_of_span

/-- Settles O50: the reads abort at the word of the denied register, and the draws are those of
`clobbered`. -/
theorem deniedLdmAborts : Obligations.DeniedLdmAborts := by
  intro s m c k b n list j hr ha hk hready hbase hj hdenied hbefore
  have hread := readWords_of_list_denied hj hdenied hbefore
  have hload := State.loadBlock_ok (bank := k.bank m) (finish := k.finish m) |>.mpr
    ⟨checkBlock_of_ready hready hbase, .inr ⟨_, hread, rfl⟩⟩
  have hexec := Block.exec_of_admits (c := c) b n hr ha
  rw [Block.transfer, if_pos hk, hload] at hexec
  exact ⟨_, _, hexec, drawRegs_keeps s (k.bank m) m n list, enters_of_pc (by simp) _⟩

/-- Settles O51: the writes abort at the word of the denied register, and each word of the range is
drawn. -/
theorem deniedStmAborts : Obligations.DeniedStmAborts := by
  intro s m c k b n list j hr ha hk hready hbase hj hdenied hbefore
  have hwrite := writeWords_of_list_denied (s.storedReg (k.bank m)) hj hdenied hbefore
  have hstore := State.storeBlock_ok (w := k.writesBack) |>.mpr
    ⟨checkBlock_of_ready hready hbase, .inr ⟨_, hwrite, rfl⟩⟩
  have hexec := Block.exec_of_admits (c := c) b n hr ha
  rw [Block.transfer, if_neg (Bool.eq_false_iff.mp hk), hstore] at hexec
  refine ⟨_, _, hexec, drawWords_keeps_list s b (s.readReg m n) list _, fun i hi => ?_,
    enters_of_pc (by simp) _⟩
  rw [← wordOf_rank (regsOf_rank hi)]
  exact wordAt_drawWords (length_words_le list _) (getElem?_words hi _)

end Sys2Proof.Claims
end

section
/-! ## What multiple transfers leave unchanged (spec 42_multiple.md R171, R183 to R185) -/

namespace Sys2Proof.Claims

open Sys2Proof.Machine

/-- A frame says of the CPSR only that it is kept; the rest holds whatever the CPSR is. -/
theorem Keeps.withCpsr {s t : State} {R : PhysReg → Prop} {B : Word → Prop} (h : Keeps s t R B) :
    Keeps s { t with cpsr := s.cpsr } R B := h.restoreCpsr t.cpsr

section
variable {s t u : State} {m bank : Mode} {b : BlockMode} {w : Bool} {n : RegNum}
  {list : BitVec 16} {R : PhysReg → Prop} {B : Word → Prop}

theorem Keeps.advance (h : Keeps s u R B) (ht : u.advance = .ok t) : Keeps s t R B := by
  obtain ⟨-, rfl⟩ := State.advance_ok.mp ht
  exact h.setPc _

theorem Keeps.jump {v : Word} (h : Keeps s u R B) (ht : u.jump v = .ok t) : Keeps s t R B := by
  obtain ⟨-, rfl⟩ := State.jump_ok.mp ht
  exact h.setPc _

/-- The CPSR is as before, or a return took it from the SPSR of the mode. -/
def CpsrKeptOrReturned (k : Block) (s t : State) (m : Mode) : Prop :=
  t.cpsr = s.cpsr ∨ ((∃ w, k = .ldmRet w) ∧ s.spsr? m = some t.cpsr)

/-- The end of a form writes no register and no memory, and only a return writes the CPSR. -/
theorem Block.finish_frame {k : Block} {v : Option Word} (h : Keeps s u R B)
    (ht : k.finish m u v = .ok t) :
    Keeps s { t with cpsr := s.cpsr } R B ∧ CpsrKeptOrReturned k s t m := by
  have kept : Keeps s t R B →
      Keeps s { t with cpsr := s.cpsr } R B ∧ CpsrKeptOrReturned k s t m := fun h' =>
    ⟨h'.withCpsr, .inl h'.cpsr⟩
  cases k with
  | ldm w =>
    cases v with
    | none => exact kept (h.advance ht)
    | some v => exact kept (h.jump ht)
  | ldmRet w =>
    cases v with
    | none => cases ht
    | some v =>
      obtain ⟨p, hp, -, -, -, rfl⟩ := State.returnFromException_ok.mp ht
      exact ⟨(h.restoreCpsr p).setPc v, .inr ⟨⟨w, rfl⟩, (h.spsr m).symm.trans hp⟩⟩
  | ldmUsr =>
    have hhazard : Keeps s (u.setHazard true) R B :=
      h.update rfl rfl (fun _ _ => rfl) (fun _ _ => rfl)
    exact kept (hhazard.advance ht)
  | stm w => exact kept (h.advance ht)
  | stmUsr => exact kept (h.advance ht)

/-- The registers an LDM reads into and its base are written before the end, or its draws precede a
Data Abort. -/
theorem loadBlock_frame {finish : State → Option Word → Res State}
    (h : s.loadBlock m bank b w n list finish = .ok t) :
    (∃ u v, Keeps s u (loads bank m w n list) noByte ∧ finish u v = .ok t) ∨
      ∃ u i, Keeps s u (fun q => loads bank m false n list q ∧ physReg m n ≠ some q) noByte ∧
        u.pc = s.pc ∧ t = u.enterDataAbort i := by
  obtain ⟨-, ⟨vs, hread, hfinish⟩ | ⟨i, -, rfl⟩⟩ := State.loadBlock_ok.mp h
  · have hbase := (Keeps.refl s (loads bank m w n list) noByte).writeBase (m := m) (w := w) (n := n)
      (v := b.newBase (s.readReg m n) (regsOf list).length) fun _ => .inr
    refine .inl ⟨_, _, hbase.writeRegs fun x hx q hq => ?_, hfinish⟩
    have hmem : x.1 ∈ regsOf list := readWords_fst hread ▸ List.mem_map_of_mem hx
    exact .inl ⟨x.1, mem_regsOf.mp hmem, hq⟩
  · exact .inr ⟨_, i, drawRegs_keeps s bank m n list, by simp, rfl⟩

/-- The words of an STM are stored and its base written, or drawn before a Data Abort. -/
theorem storeBlock_frame (h : s.storeBlock m bank b w n list = .ok t) :
    Keeps s t (baseOnly m w n) (wordsOf b (s.readReg m n) list) ∨
      ∃ u i, Keeps s u noReg (wordsOf b (s.readReg m n) list) ∧ u.pc = s.pc ∧
        t = u.enterDataAbort i := by
  obtain ⟨-, ⟨u, hwrite, -, rfl⟩ | ⟨i, -, rfl⟩⟩ := State.storeBlock_ok.mp h
  · have hwords : Keeps s u (baseOnly m w n) (wordsOf b (s.readReg m n) list) :=
      (writeWords_keeps_list hwrite).mono (fun _ => False.elim) fun _ => id
    exact .inl ((hwords.writeBase fun _ => id).setPc _)
  · exact .inr ⟨_, i, drawWords_keeps_list s b (s.readReg m n) list _, by simp, rfl⟩

end

/-- What an instruction in mode `m` comes to: only the pc advances, its body ends, or its body aborts
with nothing done. -/
theorem next_cases {i : Instr} {s t : State} {m : Mode} {c : Cond} {body : Mode → Res State}
    (hm : s.mode? = some m) (he : exec i s = s.whenPassed c body) (hn : exec i s = .next t) :
    t = s.setPc (s.pc + 4) ∨ body m = .ok t ∨ ∃ a, body m = .abort a ∧ t = s.enterDataAbort a := by
  obtain ⟨k, hk, hcase⟩ := State.whenPassed_next.mp (he.symm.trans hn)
  obtain rfl : k = m := Option.some.inj (hk.symm.trans hm)
  rcases hcase with ⟨-, -, ht⟩ | ⟨-, hbody⟩
  · exact .inl ht
  · exact .inr hbody

/-- A form whose body ends is its transfer. -/
theorem Block.transfer_of_body_ok {k : Block} {s t : State} {m : Mode} {b : BlockMode} {n : RegNum}
    {list : BitVec 16} (h : k.body s m b n list = .ok t) : k.transfer s m b n list = .ok t := by
  rcases k.body_cases s m b n list with he | ⟨r, hr⟩
  · exact he.symm.trans h
  · cases hr.symm.trans h

/-- Settles O52: where the body is not reached only the pc changes; an abort of the checks leaves all;
the rest are the frames of the two transfers. -/
theorem blockFrame : Obligations.BlockFrame := by
  intro s t m c k b n list hm hn w bytes
  rcases next_cases hm (k.exec_instr s b c n list) hn with rfl | hok | ⟨i, -, rfl⟩
  · exact .inl ⟨((Keeps.refl s _ _).setPc _).withCpsr, .inl rfl⟩
  · have htransfer := Block.transfer_of_body_ok hok
    cases hk : k.isLoad with
    | true =>
      simp only [w, bytes, hk, if_true, true_and]
      rw [Block.transfer, if_pos hk] at htransfer
      rcases loadBlock_frame htransfer with ⟨u, v, hu, hfinish⟩ | ⟨u, i, hu, hpc, rfl⟩
      · exact .inl (Block.finish_frame hu hfinish)
      · exact .inr ⟨u, i, hu, enters_of_pc hpc i⟩
    | false =>
      simp only [w, bytes, hk, Bool.false_eq_true, if_false, false_and]
      rw [Block.transfer, if_neg (Bool.eq_false_iff.mp hk)] at htransfer
      rcases storeBlock_frame htransfer with ht | ⟨u, i, hu, hpc, rfl⟩
      · exact .inl ⟨ht.withCpsr, .inl ht.cpsr⟩
      · exact .inr ⟨u, i, hu, enters_of_pc hpc i⟩
  · exact .inr ⟨s, i, Keeps.refl s _ _, dataAborts_enterDataAbort s i⟩

end Sys2Proof.Claims
end

section
/-! ## Stacks (spec 42_multiple.md R170, R180) -/

namespace Sys2Proof.Claims

open Sys2Proof.Machine

/-- The mode of the LDM that pops what an STM pushed: the other end of the range first (R180). -/
def popMode : BlockMode → BlockMode
  | .ia => .db
  | .ib => .da
  | .da => .ib
  | .db => .ia

theorem popMode_of_mem {b up : BlockMode}
    (h : (b, up) ∈ [(BlockMode.db, BlockMode.ia), (.da, .ib), (.ib, .da), (.ia, .db)]) :
    up = popMode b := by
  simp only [List.mem_cons, Prod.mk.injEq, List.not_mem_nil, or_false] at h
  rcases h with ⟨rfl, rfl⟩ | ⟨rfl, rfl⟩ | ⟨rfl, rfl⟩ | ⟨rfl, rfl⟩ <;> rfl

section
variable (b : BlockMode) (base : Word) (list : BitVec 16)

/-- A pop takes the base back to where the push found it. -/
theorem newBase_popMode : newBase (popMode b) (newBase b base list) list = base := by
  cases b <;> simp only [popMode, newBase, BitVec.add_sub_cancel, BitVec.sub_add_cancel]

/-- A pop reads the words that the push wrote. -/
theorem wordOf_popMode (i : RegNum) :
    wordOf (popMode b) (newBase b base list) list i = wordOf b base list i := by
  cases b <;> simp only [wordOf, startOf, popMode, newBase, BitVec.add_sub_cancel]

variable {b base list}

theorem newBase_aligned (h : base.toNat % 4 = 0) : (newBase b base list).toNat % 4 = 0 := by
  cases b <;> simp only [newBase] <;> bv_omega

/-- The range of the pop fits where that of the push does, if an Empty push leaves its stack pointer
in the address space. -/
theorem fits_popMode (h : Fits b base list) (hal : base.toNat % 4 = 0)
    (hia : b = .ia → base.toNat + 4 * count list < 4294967296)
    (hda : b = .da → 4 * count list ≤ base.toNat) :
    Fits (popMode b) (newBase b base list) list := by
  have hcount := count_le list
  cases b with
  | ia =>
    have := hia rfl
    simp only [popMode, newBase, Fits]
    bv_omega
  | ib =>
    simp only [popMode, newBase, Fits] at h ⊢
    bv_omega
  | da =>
    have := hda rfl
    simp only [popMode, newBase, Fits] at h ⊢
    bv_omega
  | db =>
    simp only [popMode, newBase, Fits] at h ⊢
    bv_omega

end

theorem denied_of_no_denials {s : State} (h : s.denials = []) (a : Word) (w : Width)
    (k : AccessKind) (p : Priv) : s.denied a w k p = false := by
  rw [State.denied, h]
  rfl

/-- An STM aborts outright only at its checks: an access that is denied is its own Data Abort. -/
theorem checkBlock_of_storeBlock_abort {s : State} {m bank : Mode} {b : BlockMode} {w : Bool}
    {n : RegNum} {list : BitVec 16} {i : AbortInfo} (h : s.storeBlock m bank b w n list = .abort i) :
    s.checkBlock false b w n list (s.readReg m n) = .abort i := by
  rcases Res.bind_abort.mp h with hcheck | ⟨_, -, hrest⟩
  · exact hcheck
  · dsimp only at hrest
    split at hrest
    · exact absurd hrest State.advance_ne_abort
    all_goals cases hrest

/-- An STM that ends where nothing is denied met what R171 asks of it. -/
theorem ready_of_stm_next {s t : State} {m : Mode} {c : Cond} {b : BlockMode} {w : Bool}
    {n : RegNum} {list : BitVec 16} (hr : Runs s m c) (hd : s.denials = [])
    (hal : (s.readReg m n).toNat % 4 = 0) (hn : exec (stm b c w n list) s = .next t) :
    Ready s m c ∧ BlockReady s m b n list := by
  have hconclude : s.conclude (s.storeBlock m m b w n list) = .next t :=
    (Block.exec_of_admits (k := .stm w) b n hr trivial).symm.trans hn
  cases hstore : s.storeBlock m m b w n list with
  | ok t' =>
    obtain ⟨hcheck, ⟨u, hwrite, hpc, -⟩ | ⟨i, habort, -⟩⟩ := State.storeBlock_ok.mp hstore
    · obtain ⟨hne, hn15, -, -, hwraps⟩ := State.checkBlock_ok.mp hcheck
      obtain ⟨-, hsame, -⟩ := writeWords_keeps hwrite
      exact ⟨⟨hr, hsame ▸ hpc⟩, ⟨hne, hn15, hal, (wraps_iff _ _ _ hal).mp hwraps⟩⟩
    · obtain ⟨u, hwrite⟩ := writeWords_of_list_permitted (p := m.priv) (b := b)
        (base := s.readReg m n) (list := list) (s.storedReg m)
        fun _ _ => denied_of_no_denials hd ..
      cases hwrite.symm.trans habort
  | abort i =>
    obtain ⟨-, -, -, hunaligned, -⟩ :=
      State.checkBlock_abort.mp (checkBlock_of_storeBlock_abort hstore)
    cases ((aligned_word _).mpr hal).symm.trans hunaligned
  | fault f =>
    rw [hstore] at hconclude
    cases hconclude
  | refuse r =>
    rw [hstore] at hconclude
    cases hconclude

theorem Runs.of_cpsr {s t : State} {m : Mode} {c : Cond} (h : Runs s m c) (ht : t.cpsr = s.cpsr) :
    Runs t m c :=
  ⟨(congrArg psrMode? ht).trans h.mode, (congrArg (condHolds c) ht).trans h.passed⟩

/-- Settles O53: the pop finds the stack pointer and the words that the push left, so that it loads the
listed registers with what they held and takes the stack pointer back; nothing else changed. -/
theorem popUndoesPush : Obligations.PopUndoesPush := by
  intro s t m c b up list hup hr hd hal h13 h15 hpush hpc hia hda
  obtain rfl := popMode_of_mem hup
  obtain ⟨hready, hblock⟩ := ready_of_stm_next hr hd hal hpush
  have hbase : ∀ load, BaseOk load true 13 list := fun load _ h =>
    absurd (h13.symm.trans h) Bool.false_ne_true
  obtain ⟨t', ht', -, hwords, hsp, hpushed⟩ := stmStoresTheList s m c b true 13 list hready hblock
    (hbase false) fun _ _ => denied_of_no_denials hd ..
  obtain rfl : t' = t := Host.Outcome.next.inj (ht'.symm.trans hpush)
  have hsp := hsp rfl
  have hpopBlock : BlockReady t' m (popMode b) 13 list :=
    { nonempty := hblock.nonempty, base := hblock.base
      aligned := hsp ▸ newBase_aligned hal
      fits := hsp ▸ fits_popMode hblock.fits hal hia hda }
  have hread : ∀ i, listed list i = true →
      CanRead t' m.priv (wordOf (popMode b) (t'.readReg m 13) list i) .word (s.readReg m i) := by
    intro i hi
    rw [hsp, wordOf_popMode]
    refine ⟨denied_of_no_denials (hpushed.denials.trans hd) .., (hwords i hi).trans ?_⟩
    exact congrArg some (storedReg_of_ne_fifteen (ne_fifteen_of_listed h15 hi))
  obtain ⟨u, hu, -, hloaded, hbaseBack, hpopped⟩ := ldmLoadsTheList t' m c (popMode b) true 13 list
    (s.readReg m) ⟨hr.of_cpsr hpushed.cpsr, hpc⟩ hpopBlock (hbase true) h15 hread
  have hsame : ∀ i, listed list i = true ∨ i = 13 → u.readReg m i = s.readReg m i := by
    rintro i (hi | rfl)
    · exact hloaded i hi
    · rw [hbaseBack rfl, hsp, newBase_popMode]
  refine ⟨u, hu, hpopped.cpsr.trans hpushed.cpsr, fun q => ?_⟩
  by_cases hq : ∃ i, (listed list i = true ∨ i = 13) ∧ physReg m i = some q
  · obtain ⟨i, hi, hq⟩ := hq
    rw [← readReg_eq hq, ← readReg_eq hq, hsame i hi]
  · have hpop : ¬ loads m m true 13 list q := by
      rintro (⟨i, hi, hiq⟩ | ⟨-, h13q⟩)
      · exact hq ⟨i, .inl hi, hiq⟩
      · exact hq ⟨13, .inr rfl, h13q⟩
    have hpush' : ¬ baseOnly m true 13 q := fun ⟨_, h13q⟩ => hq ⟨13, .inr rfl, h13q⟩
    exact (hpopped.regs q hpop).trans (hpushed.regs q hpush')

end Sys2Proof.Claims
end

section
/-! ## The software interrupt (spec 43_swi.md R200) -/

namespace Sys2Proof.Claims

open Sys2Proof.Machine

theorem exec_swi (c : Cond) (imm : BitVec 24) (s : State) :
    exec (.swi c imm) s = s.whenPassed c fun _ => .ok (s.enterException .swi (s.pc + 4)) := rfl

/-- The entry of SWI: Supervisor mode at vector 0x08, with F and the record of the last Data Abort as
before (R220, R223). -/
theorem enters_swi (s : State) (ret : Word) :
    Enters s (s.enterException .swi ret) .svc 0x08 ret false s.abortInfo := by
  have hvector : Config.vectorBase + Exception.swi.vector = 0x08 := BitVec.zero_add _
  exact hvector ▸ enters_enterException s .swi ret

/-- Settles O54: the body of SWI looks at neither the mode nor the immediate; it enters the exception
with the address of the next instruction as return value. -/
theorem swiEntersSupervisor : Obligations.SwiEntersSupervisor := by
  intro s m c imm hr
  have hexec : exec (.swi c imm) s = .next (s.enterException .swi (s.pc + 4)) :=
    next_of_body hr (exec_swi c imm s) rfl
  exact ⟨_, hexec, enters_swi s (s.pc + 4)⟩

end Sys2Proof.Claims
end

section
/-! ## The swap (spec 44_swp.md R205, R206, 30_encoding.md R98, 20_memory.md R59, R61) -/

namespace Sys2Proof.Claims

open Sys2Proof.Machine

theorem exec_swpb (c : Cond) (n d r : RegNum) (s : State) :
    exec (.swpb c n d r) s = s.whenPassed c fun m => s.swap m .byte n d r := rfl

section
variable {i : Instr} {s : State} {m : Mode} {c : Cond} {w : Width} {n d r : RegNum}

/-- The operands R205 admits are those the machine does not refuse. -/
theorem swapOperands_admitted (hn : n ≠ 15) (hd : d ≠ 15) (hr : r ≠ 15) (hnr : n ≠ r)
    (hnd : n ≠ d) : ¬(n = 15 ∨ d = 15 ∨ r = 15 ∨ n = r ∨ n = d) := by
  simp only [not_or]
  exact ⟨hn, hd, hr, hnr, hnd⟩

section
variable (hop : ¬(n = 15 ∨ d = 15 ∨ r = 15 ∨ n = r ∨ n = d))
include hop

/-- With A = 0 a swap at an unaligned address has no meaning (R61). -/
theorem swap_refuses_unaligned (ha : aligned (s.readReg m n) w = false)
    (hA : s.alignFlag = false) : s.swap m w n d r = .refuse .unalignedSwap := by
  simp only [State.swap, if_neg hop, ha, hA, Bool.not_false, if_true, Bool.false_eq_true, if_false]

variable (ha : aligned (s.readReg m n) w = true)
include ha

/-- Past its checks a swap is its read, its write, Rd and the next instruction. -/
theorem swap_of_aligned :
    s.swap m w n d r = (s.memRead m.priv (s.readReg m n) w).bind fun v =>
      (s.memWrite m.priv (s.readReg m n) w (s.readReg m r)).bind fun t =>
        (t.writeReg m d v).advance := by
  simp only [State.swap, if_neg hop, ha, Bool.not_true, Bool.false_eq_true, if_false]

/-- A swap whose read is denied aborts there. -/
theorem swap_aborts_on_read (hdenied : s.denied (s.readReg m n) w .read m.priv = true) :
    s.swap m w n d r = .abort ⟨.permission, s.readReg m n⟩ := by
  rw [swap_of_aligned hop ha]
  exact Res.bind_abort.mpr (.inl (State.memRead_abort.mpr ⟨hdenied, rfl⟩))

/-- A swap whose read gives a value and whose write is denied aborts at the same address. -/
theorem swap_aborts_on_write {v : Word} (hv : CanRead s m.priv (s.readReg m n) w v)
    (hdenied : s.denied (s.readReg m n) w .write m.priv = true) :
    s.swap m w n d r = .abort ⟨.permission, s.readReg m n⟩ := by
  have hread := State.memRead_ok.mpr ⟨hv.permitted, hv.value⟩
  rw [swap_of_aligned hop ha, hread, Res.bind_ok_left]
  exact Res.bind_abort.mpr (.inl (State.memWrite_abort.mpr ⟨hdenied, rfl⟩))

/-- A swap whose two accesses are permitted exchanges memory and Rd, of either width. -/
theorem swap_next {v : Word} (hr : Ready s m c)
    (he : exec i s = s.whenPassed c fun m => s.swap m w n d r)
    (hv : CanRead s m.priv (s.readReg m n) w v)
    (hw : s.denied (s.readReg m n) w .write m.priv = false) :
    exec i s = .next
      (((s.store (s.readReg m n) w (s.readReg m r)).writeReg m d v).setPc (s.pc + 4)) := by
  have hread := State.memRead_ok.mpr ⟨hv.permitted, hv.value⟩
  exact next_of_body hr.runs he (State.swap_ok.mpr ⟨hop, ha, hw, hr.next, v, hread, rfl⟩)

end

/-- A swap that ends wrote Rd and the bytes at the base register's address. -/
theorem swap_keeps {t : State} (hok : s.swap m w n d r = .ok t) :
    Keeps s t (fun q => physReg m d = some q) (span (s.readReg m n) w.bytes) := by
  obtain ⟨-, -, -, -, v, -, rfl⟩ := State.swap_ok.mp hok
  have hstore := (Keeps.refl s (fun q => physReg m d = some q) (span (s.readReg m n) w.bytes)).store
    (s.readReg m r) fun x hx => mem_storedAt_iff.mp hx
  exact (hstore.writeReg v fun q hq => hq).setPc _

end

/-- Settles O55: a word swap asks for an aligned address, a byte swap is aligned at every one. -/
theorem swapExchanges : Obligations.SwapExchanges := by
  intro s m c n d r hr hn hd hr15 hnr hnd
  have hop := swapOperands_admitted hn hd hr15 hnr hnd
  refine ⟨fun v ha hv hw => ?word, fun v hread hbyte hw => ?byte⟩
  case word => exact swap_next hop ((aligned_word _).mpr ha) hr (exec_swp ..) hv hw
  case byte => exact swap_next hop rfl hr (exec_swpb ..) ⟨hread, valueAt_byte hbyte⟩ hw

/-- Settles O56: the operands are looked at first, then the alignment, the read and the write. -/
theorem swapRefusalsAndAborts : Obligations.SwapRefusalsAndAborts := by
  intro s m c n d r hr
  refine ⟨fun hbad => ?operands, fun hn hd hr15 hnr hnd => ?admitted⟩
  case operands =>
    exact ⟨refused_of_body hr (exec_swp ..) (if_pos hbad),
      refused_of_body hr (exec_swpb ..) (if_pos hbad)⟩
  case admitted =>
    have hop := swapOperands_admitted hn hd hr15 hnr hnd
    refine ⟨fun ha hA => ?unaligned, fun ha hdenied => ?wordRead, fun v ha hv hdenied => ?wordWrite,
      fun hdenied => ?byteRead, fun v hv hdenied => ?byteWrite⟩
    case unaligned =>
      exact refused_of_body hr (exec_swp ..) (swap_refuses_unaligned hop (not_aligned_word ha) hA)
    case wordRead =>
      exact dataAborts_of_body hr (exec_swp ..)
        (swap_aborts_on_read hop ((aligned_word _).mpr ha) hdenied)
    case wordWrite =>
      exact dataAborts_of_body hr (exec_swp ..)
        (swap_aborts_on_write hop ((aligned_word _).mpr ha) hv hdenied)
    case byteRead => exact dataAborts_of_body hr (exec_swpb ..) (swap_aborts_on_read hop rfl hdenied)
    case byteWrite =>
      exact dataAborts_of_body hr (exec_swpb ..) (swap_aborts_on_write hop rfl hv hdenied)

end Sys2Proof.Claims
end

section
/-! ## What SWP, SWPB, CLZ, MRC and MCR leave unchanged (spec 44_swp.md R205, R206, 45_clz.md R210,
46_cp15_access.md R215, R216) -/

namespace Sys2Proof.Claims

open Sys2Proof.Machine

/-! ### CLZ -/

/-- Where CLZ is admitted (HAS_CLZ) it is executed like the other instructions (R210). -/
theorem exec_clz_of_hasClz {s : State} (h : s.params.hasClz = true) (c : Cond) (d r : RegNum) :
    exec (.clz c d r) s = s.whenPassed c fun m =>
      if d = 15 ∨ r = 15 then .refuse .unpredictableOperands
      else (s.writeReg m d (BitVec.ofNat 32 (leadingZeros (s.readReg m r) 32))).advance :=
  (exec_clz ..).trans (if_pos h)

theorem exec_clz_of_not_hasClz {s : State} (h : s.params.hasClz = false) (c : Cond) (d r : RegNum) :
    exec (.clz c d r) s = .refused .notAdmitted :=
  (exec_clz ..).trans (if_neg (Bool.eq_false_iff.mp h))

/-- CLZ makes no access, so it is never aborted, and writes only Rd. -/
theorem clz_keeps {s t : State} {m : Mode} {c : Cond} {d r : RegNum} (hm : s.mode? = some m)
    (hn : exec (.clz c d r) s = .next t) :
    Keeps s t (fun q => physReg m d = some q) noByte := by
  have hclz : s.params.hasClz = true := by
    rw [← Bool.not_eq_false]
    intro h
    cases (exec_clz_of_not_hasClz h c d r).symm.trans hn
  rcases next_cases hm (exec_clz_of_hasClz hclz c d r) hn with rfl | hok | ⟨a, ha, -⟩
  · exact (Keeps.refl s _ _).setPc _
  · obtain ⟨-, hend⟩ := (ite_eq_iff.mp hok).resolve_left fun h => by cases h.2
    exact ((Keeps.refl s _ _).writeReg _ fun q hq => hq).advance hend
  · rcases ite_eq_iff.mp ha with ⟨-, h⟩ | ⟨-, h⟩
    · cases h
    · exact absurd h State.advance_ne_abort

/-! ### CP15 -/

theorem exec_mrc (c : Cond) (crn : BitVec 4) (d : RegNum) (op2 : BitVec 3) (crm : BitVec 4)
    (s : State) :
    exec (.mrc c crn d op2 crm) s = s.whenPassed c fun m =>
      s.cp15Access m crn d op2 crm (s.writeReg m d s.cp15c1).advance := rfl

/-- The write of MCR to CP15 register 1, which may change no bit but A (R216). -/
def mcrBody (s : State) (m : Mode) (d : RegNum) : Res State :=
  if s.readReg m d &&& 0xFFFFFFFD = s.cp15c1 &&& 0xFFFFFFFD then
    (s.setCp15c1 (s.readReg m d)).advance
  else .refuse .cp15ControlBitsNotModelled

theorem mcrBody_ok {s t : State} {m : Mode} {d : RegNum} :
    mcrBody s m d = .ok t ↔
      s.readReg m d &&& 0xFFFFFFFD = s.cp15c1 &&& 0xFFFFFFFD ∧ s.pc ≠ 0xFFFFFFFC ∧
        t = (s.setCp15c1 (s.readReg m d)).setPc (s.pc + 4) := by
  simp only [mcrBody, ite_eq_iff, State.advance_ok, State.setCp15c1_pc, reduceCtorEq, and_false,
    or_false]

theorem mcrBody_ne_abort {s : State} {m : Mode} {d : RegNum} {a : AbortInfo} :
    mcrBody s m d ≠ .abort a := by
  simp only [mcrBody, ne_eq, ite_eq_iff, State.advance_ne_abort, reduceCtorEq, and_false, or_self,
    not_false_eq_true]

theorem exec_mcr (c : Cond) (crn : BitVec 4) (d : RegNum) (op2 : BitVec 3) (crm : BitVec 4)
    (s : State) :
    exec (.mcr c crn d op2 crm) s = s.whenPassed c fun m =>
      s.cp15Access m crn d op2 crm (mcrBody s m d) := rfl

/-- The entry of Undefined Instruction: Undefined mode at vector 0x04, with F and the record of the
last Data Abort as before (R220, R223). -/
theorem enters_undefined (s : State) (ret : Word) :
    Enters s (s.enterException .undefined ret) .und 0x04 ret false s.abortInfo := by
  have hvector : Config.vectorBase + Exception.undefined.vector = 0x04 := BitVec.zero_add _
  exact hvector ▸ enters_enterException s .undefined ret

/-- A CP15 access aborts only where its body does. -/
theorem body_abort_of_cp15Access_abort {s : State} {m : Mode} {crn : BitVec 4} {d : RegNum}
    {op2 : BitVec 3} {crm : BitVec 4} {body : Res State} {a : AbortInfo}
    (h : s.cp15Access m crn d op2 crm body = .abort a) : body = .abort a := by
  simp only [State.cp15Access, ite_eq_iff, reduceCtorEq, and_false, false_or] at h
  obtain ⟨-, -, -, hbody⟩ := h
  exact hbody

/-- What an MRC or MCR comes to, whose body makes no access: only the pc advances, the Undefined
Instruction exception is taken, or the body ends. -/
theorem cp15_next_cases {i : Instr} {s t : State} {m : Mode} {c : Cond} {crn : BitVec 4}
    {d : RegNum} {op2 : BitVec 3} {crm : BitVec 4} {body : Mode → Res State} (hm : s.mode? = some m)
    (he : exec i s = s.whenPassed c fun m => s.cp15Access m crn d op2 crm (body m))
    (hb : ∀ a, body m ≠ .abort a) (hn : exec i s = .next t) :
    t = s.setPc (s.pc + 4) ∨ Enters s t .und 0x04 (s.pc + 4) false s.abortInfo ∨
      body m = .ok t := by
  rcases next_cases hm he hn with ht | hok | ⟨a, ha, -⟩
  · exact .inl ht
  · rcases State.cp15Access_ok.mp hok with ⟨-, rfl⟩ | ⟨-, -, -, hbody⟩
    · exact .inr (.inl (enters_undefined s _))
    · exact .inr (.inr hbody)
  · exact absurd (body_abort_of_cp15Access_abort ha) (hb a)

/-- MRC writes only Rd, or is undefined. -/
theorem mrc_frame {s t : State} {m : Mode} {c : Cond} {crn : BitVec 4} {d : RegNum} {op2 : BitVec 3}
    {crm : BitVec 4} (hm : s.mode? = some m) (hn : exec (.mrc c crn d op2 crm) s = .next t) :
    Enters s t .und 0x04 (s.pc + 4) false s.abortInfo ∨
      Keeps s t (fun q => physReg m d = some q) noByte := by
  rcases cp15_next_cases hm (exec_mrc ..) (fun _ => State.advance_ne_abort) hn with
    rfl | hund | hend
  · exact .inr ((Keeps.refl s _ _).setPc _)
  · exact .inl hund
  · exact .inr (((Keeps.refl s _ _).writeReg _ fun q hq => hq).advance hend)

/-- MCR writes only bit 1 of CP15 register 1, or is undefined. -/
theorem mcr_frame {s t : State} {m : Mode} {c : Cond} {crn : BitVec 4} {d : RegNum} {op2 : BitVec 3}
    {crm : BitVec 4} (hm : s.mode? = some m) (hn : exec (.mcr c crn d op2 crm) s = .next t) :
    Enters s t .und 0x04 (s.pc + 4) false s.abortInfo ∨
      (Keeps s { t with cp15c1 := s.cp15c1 } noReg noByte ∧
        ∀ k, k ≠ 1 → t.cp15c1.getLsbD k = s.cp15c1.getLsbD k) := by
  have hpc : Keeps s (s.setPc (s.pc + 4)) noReg noByte := (Keeps.refl s _ _).setPc _
  rcases cp15_next_cases hm (exec_mcr ..) (fun _ => mcrBody_ne_abort) hn with rfl | hund | hend
  · exact .inr ⟨hpc, fun _ _ => rfl⟩
  · exact .inl hund
  · obtain ⟨hmask, -, rfl⟩ := mcrBody_ok.mp hend
    exact .inr ⟨hpc, fun _ hk => getLsbD_eq_of_and_alignMask_eq hmask hk⟩

/-- Settles O60: a swap has the frame of its body or is aborted; the other three make no access. -/
theorem swapClzCp15Frame : Obligations.SwapClzCp15Frame := fun _ _ _ _ _ _ _ hm =>
  ⟨frame_of_body hm (exec_swp ..) swap_keeps, frame_of_body hm (exec_swpb ..) swap_keeps,
    clz_keeps hm, fun _ _ _ => mrc_frame hm, fun _ _ _ => mcr_frame hm⟩

end Sys2Proof.Claims
end

section
/-! ## Count leading zeros (spec 45_clz.md R210) -/

namespace Sys2Proof.Claims

open Sys2Proof.Machine

/-! ### The count is the library's `BitVec.clz` -/

theorem leadingZeros_succ_of_set {v : Word} {n : Nat} (h : v.getLsbD n = true) :
    leadingZeros v (n + 1) = 0 := if_pos h

theorem leadingZeros_succ_of_clear {v : Word} {n : Nat} (h : v.getLsbD n = false) :
    leadingZeros v (n + 1) = leadingZeros v n + 1 := if_neg (Bool.eq_false_iff.mp h)

/-- The library counts down from bit `n` and adds the bits above it, which the model leaves out. -/
theorem clzAuxRec_eq_leadingZeros (v : Word) {n : Nat} (hn : n < 32) :
    v.clzAuxRec n = BitVec.ofNat 32 (31 - n + leadingZeros v (n + 1)) := by
  induction n with
  | zero =>
    rw [BitVec.clzAuxRec_zero]
    cases hbit : v.getLsbD 0
    case true => rw [leadingZeros_succ_of_set hbit]; rfl
    case false => rw [leadingZeros_succ_of_clear hbit]; rfl
  | succ n ih =>
    rw [BitVec.clzAuxRec_succ]
    cases hbit : v.getLsbD (n + 1)
    case true => rw [leadingZeros_succ_of_set hbit]; rfl
    case false =>
      have hsum : 31 - n + leadingZeros v (n + 1) =
          31 - (n + 1) + (leadingZeros v (n + 1) + 1) := by omega
      rw [leadingZeros_succ_of_clear hbit, ← hsum]
      exact ih (by omega)

/-- The count that CLZ writes is the library's. -/
theorem ofNat_leadingZeros (v : Word) : BitVec.ofNat 32 (leadingZeros v 32) = v.clz := by
  have h := clzAuxRec_eq_leadingZeros v (n := 31) (by decide)
  rw [Nat.sub_self, Nat.zero_add] at h
  exact h.symm

/-- The count for zero is 32 (R210). -/
theorem clz_toNat_of_eq_zero {v : Word} (h : v = 0) : v.clz.toNat = 32 :=
  congrArg BitVec.toNat (BitVec.clz_eq_iff_eq_zero.mpr h)

theorem clz_toNat_lt {v : Word} (h : v ≠ 0) : v.clz.toNat < 32 :=
  BitVec.clz_lt_iff_ne_zero.mpr h

/-- A word has zeros alone above the bit at which its count stops (R210). -/
theorem getLsbD_above_clz {v : Word} (h : v ≠ 0) {j : Nat} (hj : 31 - v.clz.toNat < j) :
    v.getLsbD j = false := by
  have hlt := clz_toNat_lt h
  obtain ⟨i, rfl⟩ : ∃ i, j = 32 - v.clz.toNat + i := Nat.exists_eq_add_of_le (by omega)
  exact BitVec.getLsbD_false_of_clzAuxRec (fun k hk => BitVec.getLsbD_of_ge v k hk) i

/-! ### The instruction -/

/-- CLZ of admitted operands writes the count to Rd and goes to the next instruction. -/
theorem clz_next {s : State} {m : Mode} {c : Cond} {d r : RegNum}
    (hclz : s.params.hasClz = true) (hr : Ready s m c) (hd : d ≠ 15) (hr15 : r ≠ 15) :
    exec (.clz c d r) s = .next ((s.writeReg m d (s.readReg m r).clz).setPc (s.pc + 4)) := by
  rw [← ofNat_leadingZeros]
  refine next_of_body hr.runs (exec_clz_of_hasClz hclz c d r) ((if_neg ?admitted).trans ?ends)
  case admitted => exact not_or.mpr ⟨hd, hr15⟩
  case ends => exact State.advance_ok.mpr (by rw [State.writeReg_pc]; exact ⟨hr.next, rfl⟩)

/-- Settles O57: the configuration is looked at first, then the operands; the count stops at the
highest one, and only zero has none. -/
theorem clzCountsLeadingZeros : Obligations.ClzCountsLeadingZeros := by
  intro s m c d r
  refine ⟨fun hclz => ?notAdmitted, fun hclz hr hbad => ?operands, fun hclz hr hd hr15 =>
    ⟨(s.readReg m r).clz.toNat, ?completes, clz_toNat_of_eq_zero, fun hne => ?count⟩⟩
  case notAdmitted => exact exec_clz_of_not_hasClz hclz c d r
  case operands => exact refused_of_body hr (exec_clz_of_hasClz hclz c d r) (if_pos hbad)
  case completes =>
    rw [BitVec.ofNat_toNat, BitVec.setWidth_eq]
    exact clz_next hclz hr hd hr15
  case count =>
    exact ⟨clz_toNat_lt hne, BitVec.getLsbD_true_clz_of_ne_zero (by decide) hne,
      fun _ => getLsbD_above_clz hne⟩

end Sys2Proof.Claims
end

section
/-! ## CP15 register 1 (spec 46_cp15_access.md R215 to R217, 30_encoding.md R98) -/

namespace Sys2Proof.Claims

open Sys2Proof.Machine

/-! ### The bits that MCR may not change -/

/-- The mask of MCR clears the flag A. -/
theorem getLsbD_and_alignMask_one (v : Word) : (v &&& 0xFFFFFFFD).getLsbD 1 = false := by
  rw [BitVec.getLsbD_and, show (0xFFFFFFFD : Word).getLsbD 1 = false from rfl, Bool.and_false]

/-- The comparison MCR makes is that of every bit other than bit 1 (R216). -/
theorem and_alignMask_eq_iff {v w : Word} :
    v &&& 0xFFFFFFFD = w &&& 0xFFFFFFFD ↔ ∀ k, k ≠ 1 → v.getLsbD k = w.getLsbD k := by
  refine ⟨fun h _ hk => getLsbD_eq_of_and_alignMask_eq h hk, fun h => ?masked⟩
  refine BitVec.eq_of_getLsbD_eq fun k _ => ?_
  by_cases hk : k = 1
  · rw [hk, getLsbD_and_alignMask_one, getLsbD_and_alignMask_one]
  · rw [getLsbD_and_alignMask v hk, getLsbD_and_alignMask w hk, h k hk]

/-! ### The checks of a CP15 access, in their order -/

theorem isControlReg_iff {crn : BitVec 4} {op2 : BitVec 3} {crm : BitVec 4} :
    isControlReg crn op2 crm = true ↔ crn = 1 ∧ op2 = 0 ∧ crm = 0 := by
  simp only [isControlReg, Bool.and_eq_true, decide_eq_true_eq, and_assoc]

section
variable {i : Instr} {s : State} {m : Mode} {c : Cond} {crn : BitVec 4} {d : RegNum}
  {op2 : BitVec 3} {crm : BitVec 4} {body : Res State} {rest : Mode → Res State}

theorem cp15Access_refuses_register (hm : m ≠ .usr) (hreg : ¬(crn = 1 ∧ op2 = 0 ∧ crm = 0)) :
    s.cp15Access m crn d op2 crm body = .refuse .cp15RegisterNotModelled := by
  have hother : isControlReg crn op2 crm = false :=
    Bool.eq_false_iff.mpr (mt isControlReg_iff.mp hreg)
  exact (if_neg hm).trans (if_pos (by rw [hother, Bool.not_false]))

/-- Past the mode and the register only Rd is looked at. -/
theorem cp15Access_of_controlReg (hm : m ≠ .usr) (hreg : crn = 1 ∧ op2 = 0 ∧ crm = 0) :
    s.cp15Access m crn d op2 crm body =
      if d = 15 then .refuse .unpredictableOperands else body := by
  have hcontrol : isControlReg crn op2 crm = true := isControlReg_iff.mpr hreg
  exact (if_neg hm).trans (if_neg (by rw [hcontrol]; exact Bool.false_ne_true))

/-- A CP15 instruction of User mode is undefined; in the other modes the register is tested before
Rd (R215 to R217). -/
theorem cp15_undefined_or_refused (hr : Runs s m c)
    (he : exec i s = s.whenPassed c fun m => s.cp15Access m crn d op2 crm (rest m)) :
    (m = .usr → ∃ t, exec i s = .next t ∧ Enters s t .und 0x04 (s.pc + 4) false s.abortInfo) ∧
      (m ≠ .usr → ¬(crn = 1 ∧ op2 = 0 ∧ crm = 0) →
        exec i s = .refused .cp15RegisterNotModelled) ∧
      (m ≠ .usr → crn = 1 ∧ op2 = 0 ∧ crm = 0 → d = 15 →
        exec i s = .refused .unpredictableOperands) := by
  refine ⟨fun hm => ?undefined, fun hm hreg => ?register, fun hm hreg hd => ?operand⟩
  case undefined =>
    exact ⟨_, next_of_body hr he (State.cp15Access_ok.mpr (.inl ⟨hm, rfl⟩)), enters_undefined s _⟩
  case register => exact refused_of_body hr he (cp15Access_refuses_register hm hreg)
  case operand => exact refused_of_body hr he ((cp15Access_of_controlReg hm hreg).trans (if_pos hd))

end

/-! ### The instructions -/

/-- Settles O59: MRC and MCR differ only in the body behind the checks. -/
theorem cp15UndefinedAndRefused : Obligations.Cp15UndefinedAndRefused := by
  intro s m c crn d op2 crm hr
  exact List.forall_mem_cons.mpr ⟨cp15_undefined_or_refused hr (exec_mrc ..),
    List.forall_mem_singleton.mpr (cp15_undefined_or_refused hr (exec_mcr ..))⟩

/-- Settles O58: with its checks passed a CP15 access is its body, which for MCR depends on the bits
other than bit 1. -/
theorem cp15RegisterOne : Obligations.Cp15RegisterOne := by
  intro s m c d hr hm hd
  have hpassed (body : Res State) : s.cp15Access m 1 d 0 0 body = body :=
    (cp15Access_of_controlReg hm ⟨rfl, rfl, rfl⟩).trans (if_neg hd)
  refine ⟨?reads, fun hbits => ⟨_, ?writes, rfl, rfl⟩, fun ⟨k, hk, hbit⟩ => ?changesAnother⟩
  case reads =>
    have hread : (s.writeReg m d s.cp15c1).advance =
        .ok ((s.writeReg m d s.cp15c1).setPc (s.pc + 4)) :=
      advance_of_pc (State.writeReg_pc ..) hr.next
    exact next_of_body hr.runs (exec_mrc ..) ((hpassed _).trans hread)
  case writes =>
    have hwrite : mcrBody s m d = .ok ((s.setCp15c1 (s.readReg m d)).setPc (s.pc + 4)) :=
      mcrBody_ok.mpr ⟨and_alignMask_eq_iff.mpr hbits, hr.next, rfl⟩
    exact next_of_body hr.runs (exec_mcr ..) ((hpassed _).trans hwrite)
  case changesAnother =>
    have hrefuse : mcrBody s m d = .refuse .cp15ControlBitsNotModelled :=
      if_neg fun hmask => hbit (and_alignMask_eq_iff.mp hmask k hk)
    exact refused_of_body hr.runs (exec_mcr ..) ((hpassed _).trans hrefuse)

end Sys2Proof.Claims
end

section
/-! ## The inputs at the boundary (spec 60_exceptions.md R220, R222, R223, R228, R229,
10_state.md R40) -/

namespace Sys2Proof.Machine

open Sys2Proof.Claims

/-- The event that is pending at the boundary is the step. -/
theorem step_of_pending {s : State} {e : Exception} (he : s.params.endian = .little)
    (hp : s.pending = some e) : step s = .next (s.nextLines.takePending e) := by
  simp only [step, he, hp]

theorem pending_of_reset {s : State} (h : s.linesNow.reset = true) : s.pending = some .reset :=
  if_pos h

/-- An FIQ that is not masked comes before an IRQ. -/
theorem pending_of_fiq {s : State} (hr : s.linesNow.reset = false) (hf : s.linesNow.fiq = true)
    (hm : psrF s.cpsr = false) : s.pending = some .fiq := by
  simp [State.pending, hr, hf, hm]

/-- An IRQ that is not masked comes when an FIQ, if there is one, is masked. -/
theorem pending_of_irq {s : State} (hr : s.linesNow.reset = false)
    (hf : s.linesNow.fiq = true → psrF s.cpsr = true) (hi : s.linesNow.irq = true)
    (hm : psrI s.cpsr = false) : s.pending = some .irq := by
  have hnofiq : ¬((s.linesNow.fiq && !psrF s.cpsr) = true) := by
    rw [Bool.and_eq_true, Bool.not_eq_true']
    rintro ⟨hfiq, hunmasked⟩
    exact Bool.false_ne_true (hunmasked.symm.trans (hf hfiq))
  simp [State.pending, hr, hnofiq, hi, hm]

/-- VECTOR_BASE is 0, so that the pc after an entry is the vector offset of R220. -/
theorem enters_at_vector (s : State) (e : Exception) (ret : Word) :
    Enters s (s.enterException e ret) e.mode e.vector ret e.setsF s.abortInfo := by
  have hvector : Config.vectorBase + e.vector = e.vector := BitVec.zero_add _
  exact hvector ▸ enters_enterException s e ret

/-- Settles O7: the pending input is entered with the address of the next instruction + 4. -/
theorem interruptsAreTakenAtTheBoundary : Obligations.InterruptsAreTakenAtTheBoundary := by
  intro s he hr
  refine ⟨fun hf hm => ⟨_, step_of_pending he (pending_of_fiq hr hf hm), ?fiq⟩,
    fun hf hi hm => ⟨_, step_of_pending he (pending_of_irq hr hf hi hm), ?irq⟩⟩
  case fiq => exact enters_at_vector s.nextLines .fiq (s.pc + 4)
  case irq => exact enters_at_vector s.nextLines .irq (s.pc + 4)

/-! ### The reset input -/

/-- The values that R40 fixes. -/
structure AtReset (t : State) : Prop where
  pc : t.pc = 0
  mode : t.mode? = some .svc
  irqMask : psrI t.cpsr = true
  fiqMask : psrF t.cpsr = true
  thumb : psrT t.cpsr = false
  align : t.alignFlag = false

/-- The low byte of the CPSR after the reset input is that of 0xD3, whatever the other bits are. -/
theorem getLsbD_resetCpsr (v : Word) {k : Nat} (hk : k < 8) :
    ((v &&& 0xFFFFFF00) ||| 0xD3).getLsbD k = (0xD3 : Word).getLsbD k := by
  have mask : ∀ k < 8, (0xFFFFFF00 : Word).getLsbD k = false := by decide
  rw [BitVec.getLsbD_or, BitVec.getLsbD_and, mask k hk, Bool.and_false, Bool.false_or]

theorem psrMode_resetCpsr (v : Word) : psrMode? ((v &&& 0xFFFFFF00) ||| 0xD3) = some .svc := by
  have field : ((v &&& 0xFFFFFF00) ||| 0xD3).extractLsb' 0 5 = (0xD3 : Word).extractLsb' 0 5 := by
    refine BitVec.eq_of_getLsbD_eq fun k hk => ?_
    rw [BitVec.getLsbD_extractLsb', BitVec.getLsbD_extractLsb', getLsbD_resetCpsr v (by omega)]
  rw [psrMode?, field]
  decide

theorem atReset_enterReset (s : State) : AtReset s.enterReset where
  pc := BitVec.zero_add _
  mode := psrMode_resetCpsr _
  irqMask := getLsbD_resetCpsr _ (by decide)
  fiqMask := getLsbD_resetCpsr _ (by decide)
  thumb := getLsbD_resetCpsr _ (by decide)
  align := getLsbD_and_alignMask_one s.cp15c1

/-- The reset input leaves memory (log 7). -/
theorem byteAt_enterReset (s : State) (a : Word) : s.enterReset.byteAt a = s.byteAt a := by
  have hmem : s.enterReset.mem = s.mem := by simp [State.enterReset]
  rw [State.byteAt, hmem, State.byteAt]

/-- Settles O11: the reset input is the first that is looked at. -/
theorem resetInputResets : Obligations.ResetInputResets := by
  intro s he hr
  obtain ⟨hpc, hmode, hi, hf, ht, ha⟩ := atReset_enterReset s.nextLines
  exact ⟨_, step_of_pending he (pending_of_reset hr), hpc, hmode, hi, hf, ht, ha,
    (sameConstants_enterReset s.nextLines).c1Other, byteAt_enterReset s.nextLines⟩

end Sys2Proof.Machine
end

section
/-! ## The denied fetch (spec 60_exceptions.md R226, 20_memory.md R73) -/

namespace Sys2Proof.Machine

open Sys2Proof.Claims

/-- `Access` is asked before anything is read at the pc. -/
theorem fetch_of_denied {s : State} {m : Mode} (hm : s.mode? = some m) (ht : psrT s.cpsr = false)
    (ha : aligned s.pc .word = true) (hd : s.denied s.pc .word .fetch m.priv = true) :
    s.fetch = .abort ⟨.permission, s.pc⟩ := by
  simp only [State.fetch, hm, ht, ha, hd, Bool.not_true, Bool.false_eq_true, if_false, if_true]

/-- Settles O8: the fetch aborts, and the entry saves the instruction's address + 4. -/
theorem deniedFetchRaisesPrefetchAbort : Obligations.DeniedFetchRaisesPrefetchAbort := by
  intro s m hat hd
  have hfetch : s.nextLines.fetch = .abort ⟨.permission, s.pc⟩ :=
    fetch_of_denied hat.mode hat.thumb ((aligned_word _).mpr hat.aligned) hd
  have hstep : step s = .next (s.nextLines.enterException .prefetchAbort (s.pc + 4)) := by
    rw [step_of_quiet hat.endian hat.quiet, stepInstr, hfetch, State.nextLines_pc]
  exact ⟨_, hstep, enters_at_vector s.nextLines .prefetchAbort (s.pc + 4)⟩

end Sys2Proof.Machine
end

section
/-! ## The banked-register hazard (spec 70_reset_and_hazards.md R266, 45_clz.md R210) -/

namespace Sys2Proof.Machine

open Sys2Proof.Claims

/-- Only CLZ depends on the configuration, namely on HAS_CLZ. -/
theorem admits_of_hasClz {s : State} {i : Instr}
    (h : ∀ c d x, i = .clz c d x → s.params.hasClz = true) : s.admits i = true := by
  by_cases hi : ∀ c d x, i ≠ .clz c d x
  · exact admits_of_not_clz hi
  · push Not at hi
    obtain ⟨c, d, x, rfl⟩ := hi
    exact h c d x rfl

/-- Settles O10: whether the instruction is admitted is asked before the hazard. -/
theorem bankedRegisterHazardIsRefused : Obligations.BankedRegisterHazardIsRefused := by
  intro s m w i r hf hd hb hr hne
  have hm : s.nextLines.mode? = some m := hf.here.mode
  have hhit : s.nextLines.hazardHit i = true := (hazardHit_iff hm i).mpr ⟨hb, r, hr, hne⟩
  rw [step_of_fetches hf, hd]
  refine ⟨fun hclz => ?hazard, fun ⟨c, d, x, hi⟩ hclz => ?notAdmitted⟩
  case hazard =>
    have hadmits : s.nextLines.admits i = true := admits_of_hasClz hclz
    simp only [hadmits, hhit, Bool.not_true, Bool.false_eq_true, if_false, if_true]
  case notAdmitted =>
    have hadmits : s.nextLines.admits i = false := hi ▸ hclz
    simp only [hadmits, Bool.not_false, if_true]

end Sys2Proof.Machine
end

section
/-! ## Denied single transfers (spec 60_exceptions.md R225, 40_single_word_byte.md R134) -/

namespace Sys2Proof.Claims

open Sys2Proof.Machine

section
variable {i : Instr} {o : MemOperand} {f : Form} {s : State} {m : Mode} {c : Cond} {n d : RegNum}
  {uv p : Bool}

/-- A load that passes its checks and is denied its read at `a` aborts with nothing done. -/
theorem load_denied {k : LoadKind} {a : Word} (h : Denotes o f s m n)
    (he : exec i s = s.whenPassed c fun m => s.loadSingle m k uv o d p) (hr : Runs s m c)
    (hl : f.Legal n d) (hd : d = 15 → p = true)
    (hcheck : s.checkAlign (f.addr (s.readReg m n)) k.width = .ok ())
    (ha : accessAddr (f.addr (s.readReg m n)) k.width = a)
    (hv : s.denied a k.width .read (accessPriv m uv) = true) :
    ∃ t, exec i s = .next t ∧ DataAborts s t .permission a := by
  refine dataAborts_of_body hr he (State.loadSingle_abort.mpr ?_)
  rw [h.address, ha]
  exact ⟨h.predictable.mpr ⟨hl, hd⟩, .inr ⟨hcheck, State.memRead_abort.mpr ⟨hv, rfl⟩⟩⟩

/-- A store that passes its checks and is denied its write at `a` aborts with nothing done. -/
theorem store_denied {w : Width} {a : Word} (h : Denotes o f s m n)
    (he : exec i s = s.whenPassed c fun m => s.storeSingle m w uv o d p) (hr : Runs s m c)
    (hl : f.Legal n d) (hd : d = 15 → p = true)
    (hcheck : s.checkAlign (f.addr (s.readReg m n)) w = .ok ())
    (ha : accessAddr (f.addr (s.readReg m n)) w = a)
    (hv : s.denied a w .write (accessPriv m uv) = true) :
    ∃ t, exec i s = .next t ∧ DataAborts s t .permission a := by
  refine dataAborts_of_body hr he (State.storeSingle_abort.mpr ?_)
  rw [h.address, ha]
  exact ⟨h.predictable.mpr ⟨hl, hd⟩, .inr ⟨hcheck, hv, rfl⟩⟩

end

/-- Settles O36: the three groups differ in the width and the privilege of the access; a word is
accessed at its aligned address. -/
theorem deniedSingleTransfersAbort : Obligations.DeniedSingleTransfersAbort := by
  intro s m c n d hr
  refine ⟨?sdt, ?sdtT, ?hsdt⟩
  case sdt =>
    rintro x _ hl rfl
    have hx := x.denotes s m n
    exact ⟨fun ha => load_denied hx (exec_ldr ..) hr hl (fun _ => rfl) (checkAlign_word.mpr ha) rfl,
      fun ha => store_denied hx (exec_str ..) hr hl (fun _ => rfl) (checkAlign_word.mpr ha) rfl,
      fun hd => load_denied hx (exec_ldrb ..) hr hl (absurd · hd) checkAlign_byte rfl,
      fun hd => store_denied hx (exec_strb ..) hr hl (absurd · hd) checkAlign_byte rfl⟩
  case sdtT =>
    rintro x _ hl hd rfl
    have hx := x.denotes s m n
    rw [← x.addr s m (s.readReg m n)]
    exact ⟨fun ha => load_denied hx (exec_ldrt ..) hr hl (absurd · hd) (checkAlign_word.mpr ha) rfl,
      fun ha => store_denied hx (exec_strt ..) hr hl (absurd · hd) (checkAlign_word.mpr ha) rfl,
      load_denied hx (exec_ldrbt ..) hr hl (absurd · hd) checkAlign_byte rfl,
      store_denied hx (exec_strbt ..) hr hl (absurd · hd) checkAlign_byte rfl⟩
  case hsdt =>
    rintro x _ hl hd rfl
    have hx := x.denotes s m n
    refine ⟨fun ha hv => List.forall_mem_cons.mpr ⟨?ldrh, List.forall_mem_singleton.mpr ?ldrsh⟩,
      fun ha => ?strh, ?ldrsb⟩
    case ldrh =>
      exact load_denied hx (exec_ldrh ..) hr hl (absurd · hd) (checkAlign_half.mpr ha) rfl hv
    case ldrsh =>
      exact load_denied hx (exec_ldrsh ..) hr hl (absurd · hd) (checkAlign_half.mpr ha) rfl hv
    case strh =>
      exact store_denied hx (exec_strh ..) hr hl (absurd · hd) (checkAlign_half.mpr ha) rfl
    case ldrsb => exact load_denied hx (exec_ldrsb ..) hr hl (absurd · hd) checkAlign_byte rfl

end Sys2Proof.Claims
end

section
/-! ## Steps from User mode (spec 60_exceptions.md R220, R223, R233, 10_state.md R21, R25, R27,
46_cp15_access.md R217) -/

namespace Sys2Proof.Claims

open Sys2Proof.Machine

/-! ### Every memory operand is a form -/

/-- What a memory operand says in the terms of the claims. -/
def formOf (o : MemOperand) (s : State) (m : Mode) : Form :=
  { up := o.up
    pre := match o.index with
      | .pre _ => true
      | .post => false
    wb := o.writesBack
    off := s.offsetValue m o.offset
    index := o.offset.reg? }

theorem denotes_formOf (o : MemOperand) (s : State) (m : Mode) :
    Denotes o (formOf o s m) s m o.base where
  base := rfl
  wb := rfl
  index := rfl
  indexed := rfl
  address := by cases h : o.index <;> simp only [State.address, Form.addr, formOf, h] <;> rfl

/-! ### An instruction of User mode -/

/-- A register of the User bank. -/
def userReg (q : PhysReg) : Prop := ∃ i, physReg .usr i = some q

/-- Any byte. -/
def anyByte (_ : Word) : Prop := True

/-- What an instruction of User mode comes to: nothing changes but registers of the User bank,
memory and the pc; or an exception is entered with the CPSR as it was. -/
inductive UserNext (s t : State) : Prop where
  | stays (h : Keeps s t userReg anyByte)
  | enters (u : State) (e : Exception) (ret : Word) (hu : u.cpsr = s.cpsr)
      (ht : t = u.enterException e ret)

section
variable {i : Instr} {s t u : State}

/-- An instruction whose frame lies in the User bank stays in User mode. -/
theorem UserNext.of_keeps {R : PhysReg → Prop} {B : Word → Prop} (h : Keeps s t R B)
    (hR : ∀ q, R q → userReg q) : UserNext s t :=
  .stays (h.mono hR fun _ _ => trivial)

theorem UserNext.of_dataAbort {R : PhysReg → Prop} {B : Word → Prop} (h : Keeps s u R B)
    (a : AbortInfo) : UserNext s (u.enterDataAbort a) :=
  .enters (u.setAbort a) .dataAbort (u.pc + 8) h.cpsr rfl

/-- The registers that a single transfer of User mode writes are of the User bank. -/
theorem userReg_of_writes {f : Form} {n : RegNum} {d : Option RegNum} {q : PhysReg}
    (h : f.writes .usr n d q) : userReg q := by
  rcases h with ⟨j, -, hj⟩ | ⟨-, hn⟩
  · exact ⟨j, hj⟩
  · exact ⟨n, hn⟩

/-- The registers that an LDM of User mode writes are of the User bank. -/
theorem userReg_of_loads {w : Bool} {n : RegNum} {list : BitVec 16} {q : PhysReg}
    (h : loads .usr .usr w n list q) : userReg q := by
  rcases h with ⟨j, -, hj⟩ | ⟨-, hn⟩
  · exact ⟨j, hj⟩
  · exact ⟨n, hn⟩

theorem userNext_ldm {b : BlockMode} {w : Bool} {n : RegNum} {list : BitVec 16}
    (h : s.ldm .usr b w n list = .ok t) : UserNext s t := by
  rcases loadBlock_frame h with ⟨u, v, hu, hend⟩ | ⟨u, a, hu, -, rfl⟩
  · cases v with
    | none => exact .of_keeps (hu.advance hend) fun _ => userReg_of_loads
    | some v => exact .of_keeps (hu.jump hend) fun _ => userReg_of_loads
  · exact .of_dataAbort hu a

theorem userNext_stm {b : BlockMode} {w : Bool} {n : RegNum} {list : BitVec 16}
    (h : s.stm .usr b w n list = .ok t) : UserNext s t := by
  rcases storeBlock_frame h with hkeeps | ⟨u, a, hu, -, rfl⟩
  · exact .of_keeps hkeeps fun _ hq => ⟨n, hq.2⟩
  · exact .of_dataAbort hu a

/-- User mode has no SPSR: the `^` forms end in a refusal (42_multiple.md R183 to R185). -/
theorem ldmReturn_usr_ne_ok {b : BlockMode} {w : Bool} {n : RegNum} {list : BitVec 16} :
    s.ldmReturn .usr b w n list ≠ .ok t := by
  simp [State.ldmReturn, State.spsr?]

theorem ldmUser_usr_ne_ok {b : BlockMode} {n : RegNum} {list : BitVec 16} :
    s.ldmUser .usr b n list ≠ .ok t := by
  simp [State.ldmUser, State.spsr?, ite_eq_iff]

theorem stmUser_usr_ne_ok {b : BlockMode} {n : RegNum} {list : BitVec 16} :
    s.stmUser .usr b n list ≠ .ok t := by
  simp [State.stmUser, State.spsr?, ite_eq_iff]

/-- MRC and MCR are undefined in User mode (R217). -/
theorem userNext_cp15Access {crn : BitVec 4} {d : RegNum} {op2 : BitVec 3} {crm : BitVec 4}
    {body : Res State} (h : s.cp15Access .usr crn d op2 crm body = .ok t) : UserNext s t := by
  rcases State.cp15Access_ok.mp h with ⟨-, ht⟩ | ⟨hne, -⟩
  · exact .enters s .undefined (s.pc + 4) rfl ht
  · exact absurd rfl hne

/-- An instruction of User mode comes to what its body comes to, or only the pc advances, or its
body aborts with nothing done. -/
theorem userNext_of_body {c : Cond} {body : Mode → Res State} (hm : s.mode? = some .usr)
    (he : exec i s = s.whenPassed c body) (hn : exec i s = .next t)
    (hb : body .usr = .ok t → UserNext s t) : UserNext s t := by
  rcases next_cases hm he hn with rfl | hok | ⟨a, -, rfl⟩
  · exact .stays ((Keeps.refl s _ _).setPc _)
  · exact hb hok
  · exact .of_dataAbort (Keeps.refl s noReg noByte) a

/-- What any of the 66 instructions comes to in User mode. -/
theorem exec_userNext (hm : s.mode? = some .usr) (hn : exec i s = .next t) : UserNext s t := by
  cases exec_meaning i s with
  | load c k uv o d p he =>
    exact userNext_of_body hm he hn fun hok =>
      .of_keeps ((denotes_formOf o s .usr).loadSingle_keeps hok) fun _ => userReg_of_writes
  | store c w uv o d p he =>
    exact userNext_of_body hm he hn fun hok =>
      .of_keeps ((denotes_formOf o s .usr).storeSingle_keeps hok) fun _ => userReg_of_writes
  | ldm c b w n l he => exact userNext_of_body hm he hn userNext_ldm
  | ldmReturn c b w n l he =>
    exact userNext_of_body hm he hn fun hok => absurd hok ldmReturn_usr_ne_ok
  | ldmUser c b n l he => exact userNext_of_body hm he hn fun hok => absurd hok ldmUser_usr_ne_ok
  | stm c b w n l he => exact userNext_of_body hm he hn userNext_stm
  | stmUser c b n l he => exact userNext_of_body hm he hn fun hok => absurd hok stmUser_usr_ne_ok
  | swi c he =>
    exact userNext_of_body hm he hn fun hok =>
      .enters s .swi (s.pc + 4) rfl (Res.ok.inj hok).symm
  | swap c w n d x he =>
    exact userNext_of_body hm he hn fun hok => .of_keeps (swap_keeps hok) fun _ hq => ⟨d, hq⟩
  | clz c d x he => exact .of_keeps (clz_keeps hm (he.symm.trans hn)) fun _ hq => ⟨d, hq⟩
  | mrc c crn d op2 crm he => exact userNext_of_body hm he hn userNext_cp15Access
  | mcr c crn d op2 crm he => exact userNext_of_body hm he hn userNext_cp15Access

end

/-! ### A step from User mode -/

/-- A step from User mode is the reset input, or what an instruction of User mode can come to. -/
theorem step_userNext {s t : State} (hm : s.mode? = some .usr) (h : step s = .next t) :
    t = s.nextLines.enterReset ∨ UserNext (s.nextLines.setHazard false) t := by
  cases step_next h with
  | reset ht => exact .inl ht
  | entry e _ ht => exact .inr (.enters s.nextLines e (s.pc + 4) rfl ht)
  | executed w i _ _ _ _ he => exact .inr (exec_userNext hm he)

theorem mode?_eq_of_cpsr {s t : State} (h : t.cpsr = s.cpsr) : t.mode? = s.mode? :=
  congrArg psrMode? h

/-- The modes and vectors of R220. -/
theorem mem_exceptionTable (e : Exception) :
    (e.mode, e.vector) ∈ [(Mode.svc, (0x00 : Word)), (.und, 0x04), (.svc, 0x08), (.abt, 0x0C),
      (.abt, 0x10), (.irq, 0x18), (.fiq, 0x1C)] := by
  cases e <;> decide

/-- Settles O15: what is not an exception keeps the CPSR; the entry of an exception is that of R223,
and only the reset input saves no CPSR. -/
theorem userModeIsLeftOnlyByAnException : Obligations.UserModeIsLeftOnlyByAnException := by
  intro s t hm h
  rcases step_userNext hm h with rfl | hnext
  · obtain ⟨hpc, hmode, hi, -, ht, -⟩ := atReset_enterReset s.nextLines
    exact .inr ⟨.svc, 0, mem_exceptionTable .reset, hmode, hpc, hi, ht, absurd rfl⟩
  · cases hnext with
    | stays hkeeps => exact .inl ((mode?_eq_of_cpsr hkeeps.cpsr).trans hm)
    | enters u e ret hu ht =>
      have henters : Enters u t e.mode e.vector ret e.setsF u.abortInfo :=
        ht ▸ enters_at_vector u e ret
      exact .inr ⟨e.mode, e.vector, mem_exceptionTable e, henters.mode, henters.pc,
        henters.irqMask, henters.thumb, fun _ => henters.saved.trans (congrArg some hu)⟩

theorem mode_ne_usr (e : Exception) : e.mode ≠ .usr := by
  cases e <;> decide

/-- Settles O16: no exception enters User mode, so that the step was an instruction whose frame lies
in the User bank. -/
theorem userStepsKeepPrivilegedState : Obligations.UserStepsKeepPrivilegedState := by
  intro s t hm h ht
  rcases step_userNext hm h with rfl | hnext
  · cases (atReset_enterReset s.nextLines).mode.symm.trans ht
  · cases hnext with
    | stays hkeeps =>
      exact ⟨fun q hq => hkeeps.regs q fun ⟨i, hi⟩ => hq i hi, hkeeps.spsr, hkeeps.cpsr,
        hkeeps.cp15c1⟩
    | enters u e ret _ he =>
      have hmode : t.mode? = some e.mode := he ▸ (enters_at_vector u e ret).mode
      exact absurd (Option.some.inj (hmode.symm.trans ht)) (mode_ne_usr e)

end Sys2Proof.Claims
end
